-- ==== Sys2Proof/Word.lean ====
section
/-! DEFINITION. The words the engine stores and moves (00_scope R6, 20_memory R54): whole 32-bit words, the 16-bit fields that carry times, slots and results, the bytes that carry characters. -/

namespace Sys2Proof

/-- A codeword, a command word, a response word or an event word (R6). -/
abbrev Word := BitVec 32

/-- A 16-bit argument, result, time value or correction (R24, R81, R86). -/
abbrev Half := BitVec 16

/-- An opcode, a status code, an event code, or one character of a slot-plan string (R81, R87, R93, R98). -/
abbrev Byte := BitVec 8

/-- A message is held as its CodeWords list: element 0 is the frame position, the rest are opaque payload codewords (10_state R31). -/
abbrev Message := List Word

end Sys2Proof
end

