-- ==== Sys2Proof/Config.lean ====
section
/-! DEFINITION. What an implementation fixes (the OPEN parameters of 00_scope R5, the payload type) and the one free value of the model. -/

namespace Sys2Proof

/-- A value of the uninterpreted type Payload (R5, R206, D24), named by a number.
DESIGN CHOICE (log entry 1): the engine stores a payload and hands it back and never looks inside, so any infinite set of names serves; safe. -/
structure Payload where
  number : Nat
  deriving DecidableEq, Repr

/-- The OPEN parameters of R5. They are carried in the state, where no step writes them, so that a statement about every state is a statement about every value of them (log entry 3). -/
structure Params where
  /-- DELAY_MS, 0 to 65535 milliseconds (R5, D14). -/
  delayMs : Half
  /-- W_PREAMBLE (R5, R173). -/
  wPreamble : Word
  /-- W_SYNC (R5, R173). -/
  wSync : Word
  /-- W_IDLE (R5, R173). -/
  wIdle : Word
  /-- QDEPTH; none is 'unbounded' (R5, R201, D20). -/
  qdepth : Option Nat
  deriving DecidableEq, Repr

/-- The defaults of R5, the values the spec's test vectors use. -/
def Params.default : Params where
  delayMs := 0
  wPreamble := 0xAAAAAAAA
  wSync := 0x7CD215D8
  wIdle := 0x7A89C197
  qdepth := none

/-- FREE VALUE (log entry 4): whether the host moves before the tick engine where both can move and no turn is listed.
The two orders are both executions (R61, R228 d), so nothing constrains it. -/
opaque Config.hostFirst : Nat → Bool

end Sys2Proof
end

