-- ==== Sys2Proof/Syntax.lean ====
section
/-! DEFINITION. The 14 commands of the engine, one constructor per row of spec/opcode_table.json (30_encoding R83). -/

namespace Sys2Proof

/-- A command with its operands (30_encoding R82, R83, R88, R93, R95). -/
inductive Instr where
  /-- SETSLOTS: the characters of the slot-plan string, one byte each (R93, R111). -/
  | setslots (chars : List Byte)
  /-- ISALLOWED: slot (R113). -/
  | isallowed (slot : Half)
  /-- ALLOWEDRUN: startSlot (R114). -/
  | allowedrun (slot : Half)
  /-- INDEXOF: time (R112). -/
  | indexof (time : Half)
  /-- ISNEXTALLOWED: time (R115). -/
  | isnextallowed (time : Half)
  /-- TIMETONEXT: time (R116). -/
  | timetonext (time : Half)
  /-- HASCHANGED: time (R117). -/
  | haschanged (time : Half)
  /-- TICK: WALL (R131). -/
  | tick (wall : Half)
  /-- GETTIME (R150). -/
  | gettime
  /-- CORRECTTIME: delta, two's complement (R151). -/
  | correcttime (delta : Half)
  /-- CANCEL (R153). -/
  | cancel
  /-- SETOBSERVER: enable (R154). -/
  | setobserver (enable : Bool)
  /-- QPUSH: the CodeWords list as sent, element 0 first (R95, R202). -/
  | qpush (msg : Message)
  /-- QEMPTY (R205). -/
  | qempty
  deriving DecidableEq, Repr

end Sys2Proof
end

