-- ==== Sys2Proof/WellFormed.lean ====
section
/-! DEFINITION. Which commands a command word can spell: the LEN field of format V has 16 bits (30_encoding R82, R93, R96). -/

namespace Sys2Proof

/-- The largest count the LEN field carries, MAXLEN of R5. -/
abbrev maxLen : Nat := 65535

/-- The command has an encoding: its operand list is no longer than LEN can say (R93: 0 to 65535 characters; R96: at most 65535 elements).
A list of 0 elements has an encoding too: QPUSH refuses it when it runs (R96, R210), not as a word. -/
abbrev Instr.WellFormed : Instr → Prop
  | .setslots chars => chars.length ≤ maxLen
  | .isallowed _ => True
  | .allowedrun _ => True
  | .indexof _ => True
  | .isnextallowed _ => True
  | .timetonext _ => True
  | .haschanged _ => True
  | .tick _ => True
  | .gettime => True
  | .correcttime _ => True
  | .cancel => True
  | .setobserver _ => True
  | .qpush msg => msg.length ≤ maxLen
  | .qempty => True

end Sys2Proof
end

