-- ==== Sys2Proof/Decode.lean ====
section
/-! DEFINITION. Ports, formats, the opcode map, the decoder of a port's words and the encoder (30_encoding R80 to R85, R93, R95). -/

namespace Sys2Proof

/-- The two ports on which commands arrive (R80). -/
inductive Port where
  | host
  | tick
  deriving DecidableEq, Repr

/-- The three formats of R82. -/
inductive Format where
  /-- No operand: ARG is zero. -/
  | z
  /-- One 16-bit argument. -/
  | a
  /-- Variable length: ARG is the count LEN, operand words follow. -/
  | v
  deriving DecidableEq, Repr

/-- The assigned opcodes, one per row of R83. -/
inductive Op where
  | setslots | isallowed | allowedrun | indexof | isnextallowed | timetonext | haschanged
  | tick | gettime | correcttime | cancel | setobserver | qpush | qempty
  deriving DecidableEq, Repr

/-- Why the decoder answers ILLEGAL_CMD, in the order of R84's steps 1 to 4. -/
inductive Illegal where
  /-- Step 1: RSV is not zero. -/
  | reserved
  /-- Step 2: OPC is not in R83. -/
  | unassigned
  /-- Step 3: the command belongs to the other port. -/
  | wrongPort
  /-- Step 4: format Z with a non-zero ARG, or SETOBSERVER with a bit of ARG[15:1]. -/
  | argument
  deriving DecidableEq, Repr

/-- What the decoder makes of the words waiting on a port. -/
inductive Decoded where
  /-- A command, and the words after it. -/
  | command (i : Instr) (rest : List Word)
  /-- A word that spells no command on this port; that one word is consumed (R84, D29). -/
  | illegal (why : Illegal) (rest : List Word)
  /-- No word, or a format V header whose operand words have not all arrived: nothing is taken yet. -/
  | incomplete
  deriving DecidableEq, Repr

/-- CW[31:24] (R81). -/
def Word.opc (w : Word) : Byte := w.extractLsb' 24 8

/-- CW[23:16] (R81). -/
def Word.rsv (w : Word) : Byte := w.extractLsb' 16 8

/-- CW[15:0] (R81). -/
def Word.arg (w : Word) : Half := w.extractLsb' 0 16

/-- The OPC column of R83. -/
def Op.code : Op → Byte
  | .setslots => 0x10
  | .isallowed => 0x11
  | .allowedrun => 0x12
  | .indexof => 0x13
  | .isnextallowed => 0x14
  | .timetonext => 0x15
  | .haschanged => 0x16
  | .tick => 0x20
  | .gettime => 0x21
  | .correcttime => 0x22
  | .cancel => 0x23
  | .setobserver => 0x24
  | .qpush => 0x40
  | .qempty => 0x43

/-- The format column of R83. -/
def Op.format : Op → Format
  | .setslots | .qpush => .v
  | .gettime | .cancel | .qempty => .z
  | .isallowed | .allowedrun | .indexof | .isnextallowed | .timetonext | .haschanged
  | .tick | .correcttime | .setobserver => .a

/-- The port column of R83. -/
def Op.port : Op → Port
  | .tick => .tick
  | .setslots | .isallowed | .allowedrun | .indexof | .isnextallowed | .timetonext | .haschanged
  | .gettime | .correcttime | .cancel | .setobserver | .qpush | .qempty => .host

/-- The rows of R83 in the table's order. -/
def Op.all : List Op :=
  [.setslots, .isallowed, .allowedrun, .indexof, .isnextallowed, .timetonext, .haschanged,
   .tick, .gettime, .correcttime, .cancel, .setobserver, .qpush, .qempty]

/-- R84 step 2: the row of an OPC value, if it is assigned. -/
def Op.ofCode (b : Byte) : Option Op := Op.all.find? fun o => o.code == b

/-- R84 step 4: whether the ARG field is one the format allows. -/
def Op.argLegal (o : Op) (arg : Half) : Bool :=
  match o with
  | .gettime | .cancel | .qempty => arg == 0
  | .setobserver => arg.extractLsb' 1 15 == 0
  | .setslots | .isallowed | .allowedrun | .indexof | .isnextallowed | .timetonext | .haschanged
  | .tick | .correcttime | .qpush => true

/-- R84 step 5: how many operand words follow the header; R93 packs four characters a word. -/
def Op.operandWords (o : Op) (arg : Half) : Nat :=
  match o with
  | .setslots => (arg.toNat + 3) / 4
  | .qpush => arg.toNat
  | _ => 0

/-- The four characters of an operand word, the first in the least significant byte (R93). -/
def unpackWord (w : Word) : List Byte :=
  [w.extractLsb' 0 8, w.extractLsb' 8 8, w.extractLsb' 16 8, w.extractLsb' 24 8]

/-- The LEN characters of a SETSLOTS operand; unused high bytes of the last word are ignored (R93). -/
def unpackChars (len : Nat) (ws : List Word) : List Byte := (ws.flatMap unpackWord).take len

/-- One operand word from up to four characters, unused high bytes zero (R93). -/
def packWord (c0 c1 c2 c3 : Byte) : Word := c3 ++ c2 ++ c1 ++ c0

/-- The operand words of a SETSLOTS string (R93). -/
def packChars : List Byte → List Word
  | [] => []
  | [c0] => [packWord c0 0 0 0]
  | [c0, c1] => [packWord c0 c1 0 0]
  | [c0, c1, c2] => [packWord c0 c1 c2 0]
  | c0 :: c1 :: c2 :: c3 :: cs => packWord c0 c1 c2 c3 :: packChars cs

/-- The command that an opcode, its argument and its operand words spell (R83, R88, R93, R95). -/
def assemble (o : Op) (arg : Half) (operands : List Word) : Instr :=
  match o with
  | .setslots => .setslots (unpackChars arg.toNat operands)
  | .isallowed => .isallowed arg
  | .allowedrun => .allowedrun arg
  | .indexof => .indexof arg
  | .isnextallowed => .isnextallowed arg
  | .timetonext => .timetonext arg
  | .haschanged => .haschanged arg
  | .tick => .tick arg
  | .gettime => .gettime
  | .correcttime => .correcttime arg
  | .cancel => .cancel
  | .setobserver => .setobserver (arg.getLsbD 0)
  | .qpush => .qpush operands
  | .qempty => .qempty

/-- Decoding the words of a port, in the order of R84's steps. -/
def decode (p : Port) : List Word → Decoded
  | [] => .incomplete
  | w :: rest =>
    if w.rsv ≠ 0 then .illegal .reserved rest
    else match Op.ofCode w.opc with
      | none => .illegal .unassigned rest
      | some o =>
        if o.port ≠ p then .illegal .wrongPort rest
        else if o.argLegal w.arg = false then .illegal .argument rest
        else if rest.length < o.operandWords w.arg then .incomplete
        else .command (assemble o w.arg (rest.take (o.operandWords w.arg))) (rest.drop (o.operandWords w.arg))

/-- The row of R83 a command belongs to. -/
def Instr.op : Instr → Op
  | .setslots _ => .setslots
  | .isallowed _ => .isallowed
  | .allowedrun _ => .allowedrun
  | .indexof _ => .indexof
  | .isnextallowed _ => .isnextallowed
  | .timetonext _ => .timetonext
  | .haschanged _ => .haschanged
  | .tick _ => .tick
  | .gettime => .gettime
  | .correcttime _ => .correcttime
  | .cancel => .cancel
  | .setobserver _ => .setobserver
  | .qpush _ => .qpush
  | .qempty => .qempty

/-- The port a command is accepted on (R83). -/
def Instr.port (i : Instr) : Port := i.op.port

/-- The ARG field of a command's header (R82, R88). -/
def Instr.arg : Instr → Half
  | .setslots chars => BitVec.ofNat 16 chars.length
  | .isallowed a | .allowedrun a | .indexof a | .isnextallowed a | .timetonext a | .haschanged a
  | .tick a | .correcttime a => a
  | .setobserver enable => if enable then 1 else 0
  | .qpush msg => BitVec.ofNat 16 msg.length
  | .gettime | .cancel | .qempty => 0

/-- The operand words after a command's header (R93, R95). -/
def Instr.operands : Instr → List Word
  | .setslots chars => packChars chars
  | .qpush msg => msg
  | _ => []

/-- A command word: OPC, RSV = 0, ARG (R81). -/
def commandWord (o : Op) (arg : Half) : Word := o.code ++ (0 : Byte) ++ arg

/-- The words of a well-formed command, header first, operands after it with no padding (R81, R82). -/
def encode (i : Instr) : List Word := commandWord i.op i.arg :: i.operands

/-- The words of an opcode-table word w of nbits bits: its own words, the first being its low 32 bits, then operand words of zeros, as many as its header asks for. -/
def tableWords (nbits w : Nat) : List Word :=
  let own : List Word := (List.range ((nbits + 31) / 32)).map fun k => BitVec.ofNat 32 ((w % 2 ^ nbits) >>> (32 * k))
  let header : Word := own.headD 0
  let wanted : Nat := match Op.ofCode header.opc with
    | some o => o.operandWords header.arg
    | none => 0
  own ++ List.replicate (wanted + 1 - own.length) 0

/-- The command the decoder reads from an opcode-table word, on whichever port takes it. -/
def decodeTableWord (nbits w : Nat) : Option Instr :=
  match decode .host (tableWords nbits w) with
  | .command i _ => some i
  | _ =>
    match decode .tick (tableWords nbits w) with
    | .command i _ => some i
    | _ => none

end Sys2Proof
end

