-- ==== Sys2Proof/Machine/State.lean ====
section
/-! DEFINITION. The whole state of the engine (10_state R20 to R33), what it sends out, what the outside world presents to it, and reset (R37). Plain data. -/

namespace Sys2Proof.Machine

/-- STATE (10_state R25). The fourth code 0b11 does not exist (U19). -/
inductive SchedState where
  | awaitingSlot
  | dataEncoded
  | slotStillAllowed
  deriving DecidableEq, Repr

/-- Status codes of a response (30_encoding R87). -/
inductive Status where
  | ok
  | illegalCmd
  | badDigit
  | badMessage
  | queueFull
  deriving DecidableEq, Repr

/-- Events of the event port (30_encoding R98). -/
inductive Event where
  /-- The observer is given PLAN16 (R135, R208). -/
  | obsNotify (plan16 : Half)
  /-- An encode failure: the code of STATE at the start of the tick, and the tick's time (R143, R146, R224). -/
  | logEncodeFail (state : SchedState) (time : Half)
  /-- A send failure in DATA_ENCODED, and the tick's time (R144, R225). -/
  | logSendFail (time : Half)
  /-- The first message a BUILD examined does not fit (R182). -/
  | logNofit (needed : Nat) (maxBatches : Int)
  deriving DecidableEq, Repr

/-- Requests on the Transmitter port (30_encoding R97). -/
inductive XmitRequest where
  | encode (stream : List Word)
  | send (p : Payload)
  deriving DecidableEq, Repr

/-- The Transmitter's answer to ENCODE (43_interfaces R206). -/
inductive EncodeAnswer where
  | ok (p : Payload)
  | fail
  deriving DecidableEq, Repr

/-- The Transmitter's answer to SEND (43_interfaces R207). -/
inductive SendAnswer where
  | ok
  | fail
  deriving DecidableEq, Repr

/-- One element of the output trace (10_state R33), in the order sent; a request and its answer are two elements, since host responses may lie between them (log entry 9). -/
inductive Output where
  /-- A response word on the port of its command (R86). -/
  | response (p : Port) (rw : Word)
  /-- An event word (R98). -/
  | event (ev : Word)
  /-- A request to the Transmitter (R97). -/
  | request (r : XmitRequest)
  /-- The answer to the outstanding ENCODE (R206). -/
  | encodeAnswer (a : EncodeAnswer)
  /-- The answer to the outstanding SEND (R207). -/
  | sendAnswer (a : SendAnswer)
  deriving DecidableEq, Repr

/-- Which arm of the state machine called BUILD (41_scheduler R142, R145). -/
inductive Arm where
  | awaiting
  | still
  deriving DecidableEq, Repr

/-- The locals of a BUILD and of the tick around it (10_state R30, R32; 42_batchbuilder R171, R172). -/
structure BuildLocals where
  arm : Arm
  /-- The tick-local time (R133). -/
  time : Half
  maxBatches : Int
  /-- The stream buffer (R32). -/
  stream : List Word
  consumed : Nat
  deriving DecidableEq, Repr

/-- How far a tick in progress has come: the micro-step it takes next, with the tick-local values still in use (10_state R27, R30).
A value is held from the micro-step that reads it to the one that last uses it. -/
inductive TickPos where
  /-- Next is T0, the cancel check (R132); WALL is latched (R131). -/
  | t0 (wall : Half)
  /-- Next is T1, the time base (R133). -/
  | t1 (wall : Half)
  /-- Next is T2, the change detector (R134). -/
  | t2 (time : Half)
  /-- Next is T3, the observer (R135). -/
  | t3 (time : Half) (ch : Bool)
  /-- Next is T4, the dispatch (R136). -/
  | t4 (time : Half)
  /-- AWAITING_SLOT: next is isNextAllowed (R141). -/
  | awaitNext (time : Half)
  /-- AWAITING_SLOT: next is MQ.isEmpty (R141). -/
  | awaitQueue (time : Half) (a : Bool)
  /-- AWAITING_SLOT: next is timeToNextSlot and the decision (R141). -/
  | awaitLead (time : Half) (a q : Bool)
  /-- AWAITING_SLOT: next is allowedRun for the next slot (R142). -/
  | awaitRun (time : Half)
  /-- DATA_ENCODED: next is isAllowed (R144). -/
  | sendGuard (time : Half)
  /-- DATA_ENCODED: next is the SEND request (R144). -/
  | sendCall (time : Half)
  /-- DATA_ENCODED: the SEND is outstanding (R207). -/
  | sendWait (time : Half)
  /-- DATA_ENCODED: the SEND is answered; next is the outcome (R144). -/
  | sendDone (time : Half) (a : SendAnswer)
  /-- SLOT_STILL_ALLOWED: next is isAllowed (R145). -/
  | stillGuard (time : Half)
  /-- SLOT_STILL_ALLOWED: next is MQ.isEmpty (R145). -/
  | stillQueue (time : Half)
  /-- SLOT_STILL_ALLOWED: next is allowedRun for the current slot (R145). -/
  | stillRun (time : Half)
  /-- BUILD: next is MQ.pop (R174). -/
  | buildPop (b : BuildLocals)
  /-- BUILD holds the popped message m; next is the test, and its consumption or its return (R174 to R176). -/
  | buildTest (b : BuildLocals) (m : Message)
  /-- BUILD: next is the no-fit diagnostic (R182). -/
  | buildNofit (b : BuildLocals) (needed : Nat)
  /-- BUILD has left its loop; next is its result (R177). -/
  | buildResult (b : BuildLocals)
  /-- Next is the ENCODE request (R142, R145). -/
  | encodeCall (arm : Arm) (time : Half) (stream : List Word)
  /-- The ENCODE is outstanding (R206). -/
  | encodeWait (arm : Arm) (time : Half)
  /-- The ENCODE is answered; next is the outcome (R143, R146). -/
  | encodeDone (arm : Arm) (time : Half) (a : EncodeAnswer)
  /-- Next is the tick's end (R147). -/
  | finish
  deriving DecidableEq, Repr

/-- What happens next, as the outside world lists it: which agent moves, an answer, the reset input, or a breach of an obligation of the platform (00_scope R9, R10; 20_memory R61). -/
inductive Turn where
  /-- The host port's next command takes effect. -/
  | host
  /-- The tick engine takes its next micro-step, or accepts the tick port's next word. -/
  | tick
  /-- The Transmitter answers the outstanding ENCODE (R206). -/
  | encodeAnswer (a : EncodeAnswer)
  /-- The Transmitter answers the outstanding SEND (R207). -/
  | sendAnswer (a : SendAnswer)
  /-- The reset input is asserted (70 R250). -/
  | reset
  /-- The platform forces a tick whether or not one is running (R10, R253, U16). -/
  | forcedTick
  /-- Another consumer takes from the queue (R66, R261, U16). -/
  | foreignPop
  deriving DecidableEq, Repr

/-- Why a step stops with a fault. There is no such reason: the engine has no fault state and every failure is contained (00_scope R10; 60 R223, R226). Nobody raises it; safe. -/
inductive Fault where
  deriving DecidableEq, Repr

/-- Why a step has no meaning. -/
inductive Refusal where
  /-- Raised by exec's arm of an instruction without a meaning yet; safe. -/
  | notModelled (mnemonic : String)
  /-- Raised by the step when the platform forces a second tick into a running one: the spec gives it no meaning and orders the refusal (R10, R253, U16); safe. -/
  | overlappingTicks
  /-- Raised by the step when a second consumer takes from the queue: the spec gives it no meaning and orders the refusal (R10, R66, U16); safe. -/
  | secondConsumer
  deriving DecidableEq, Repr

/-- The state of the engine (10_state R20), with the parameters (R5) and what the outside world presents (log entries 3 to 7). -/
structure State where
  /-- The OPEN parameters of R5; no step writes them. -/
  params : Params
  /-- SLOTS as PLAN16: bit i is SLOTS[i] (R21). -/
  slots : Half
  /-- LASTVALID (R22). -/
  lastValid : Bool
  /-- LASTIDX (R22). -/
  lastIdx : BitVec 4
  /-- CORR (R23). -/
  corr : Half
  /-- TIME (R24). -/
  time : Half
  /-- STATE (R25). -/
  sched : SchedState
  /-- PAYLOAD (R26). -/
  payload : Payload
  /-- PAYLOAD_VALID (R26). -/
  payloadValid : Bool
  /-- CANCEL (R28). -/
  cancel : Bool
  /-- OBS_EN (R29). -/
  obsEn : Bool
  /-- The tick in progress, if there is one: TICK_BUSY, the tick-local values, the stream buffer (R30, R32). -/
  tick : Option TickPos
  /-- MQ, head first (R31). -/
  mq : List Message
  /-- The output trace, oldest first (R33). -/
  trace : List Output
  /-- Words presented on the host port and not yet taken, oldest first (R80, R84). -/
  hostPort : List Word
  /-- Words presented on the tick port and not yet taken, oldest first (R80, R131). -/
  tickPort : List Word
  /-- What happens next, as far as it is listed (R60, R61). -/
  turns : List Turn
  /-- The model's own counter of free choices taken (log entry 4). -/
  draws : Nat
  deriving DecidableEq, Repr

/-- The machine right after reset (R37, R38, R251).
PAYLOAD is unspecified there: DESIGN CHOICE payload 0 (log entry 2). TIME is 0 (R37, log entry 11). Nothing is presented on the ports (log entry 5); the parameters are R5's defaults (log entry 3). -/
def State.reset : State where
  params := Params.default
  slots := 0
  lastValid := false
  lastIdx := 0
  corr := 0
  time := 0
  sched := .awaitingSlot
  payload := ⟨0⟩
  payloadValid := false
  cancel := false
  obsEn := false
  tick := none
  mq := []
  trace := []
  hostPort := []
  tickPort := []
  turns := []
  draws := 0

end Sys2Proof.Machine
end

