-- ==== Sys2Proof/Machine/Operands.lean ====
section
/-! DEFINITION. How a command reads its operands (30_encoding R88, R93, R94) and the small numbers shown as words (R25, R86, R87, R97, R98). -/

namespace Sys2Proof.Machine

/-- `slot` and `startSlot`: zext_16(ARG) (R88). -/
def slotArg (a : Half) : Int := a.toNat

/-- `time`: zext_16(ARG) (R88). -/
def timeArg (a : Half) : Int := a.toNat

/-- `delta`: sext_16(ARG) (R88). -/
def deltaArg (a : Half) : Int := a.toInt

/-- A number reduced mod 65536 to a 16-bit field (R7). -/
def half (n : Int) : Half := BitVec.ofInt 16 n

/-- A truth value as a RESULT (R113). -/
def bit (b : Bool) : Half := if b then 1 else 0

/-- The value of a hex digit, upper or lower case; none for every other byte (R94). -/
def hexDigit (c : Byte) : Option Nat :=
  if 0x30 ≤ c.toNat ∧ c.toNat ≤ 0x39 then some (c.toNat - 0x30)
  else if 0x41 ≤ c.toNat ∧ c.toNat ≤ 0x46 then some (c.toNat - 0x41 + 10)
  else if 0x61 ≤ c.toNat ∧ c.toNat ≤ 0x66 then some (c.toNat - 0x61 + 10)
  else none

/-- The plan a string of characters spells: none if a character is no hex digit, else the sixteen entries, cleared first and then set digit by digit (R111). -/
def planOf (chars : List Byte) : Option Half :=
  (chars.mapM hexDigit).map fun digits => digits.foldl (fun plan d => plan ||| BitVec.ofNat 16 (2 ^ d)) 0

/-- A CodeWords list is well-formed when it has an element 0 and that is at most 7 (R210). -/
def messageOk (m : Message) : Bool :=
  match m with
  | [] => false
  | f :: _ => f.toNat ≤ 7

/-- STATUS of a response word (R87). -/
def Status.code : Status → Byte
  | .ok => 0x00
  | .illegalCmd => 0x01
  | .badDigit => 0x02
  | .badMessage => 0x03
  | .queueFull => 0x04

/-- RW: STATUS, zeros, RESULT (R86). -/
def responseWord (st : Status) (result : Half) : Word := st.code ++ (0 : Byte) ++ result

/-- The encoding of STATE (R25, D6). -/
def SchedState.code : SchedState → BitVec 2
  | .awaitingSlot => 0b00
  | .dataEncoded => 0b01
  | .slotStillAllowed => 0b10

/-- EV[31:24] (R98). -/
def Event.code : Event → Byte
  | .obsNotify _ => 0x01
  | .logEncodeFail _ _ => 0x10
  | .logSendFail _ => 0x11
  | .logNofit _ _ => 0x12

/-- EV[23:16] (R98): the code of STATE, or the batches needed, at most 255. -/
def Event.fieldA : Event → Byte
  | .obsNotify _ => 0
  | .logEncodeFail st _ => st.code.setWidth 8
  | .logSendFail _ => 1
  | .logNofit needed _ => BitVec.ofNat 8 (min needed 255)

/-- EV[15:0] (R98): the plan, the tick's time, or maxBatches mod 65536. -/
def Event.fieldB : Event → Half
  | .obsNotify plan => plan
  | .logEncodeFail _ time => time
  | .logSendFail time => time
  | .logNofit _ mb => half mb

/-- EV: the event word (R98). -/
def Event.word (e : Event) : Word := e.code ++ e.fieldA ++ e.fieldB

/-- The code of a Transmitter request (R97). -/
def XmitRequest.code : XmitRequest → Byte
  | .encode _ => 0x01
  | .send _ => 0x02

/-- The count N an ENCODE carries before its words (R97). -/
def XmitRequest.count : XmitRequest → Nat
  | .encode stream => stream.length
  | .send _ => 0

/-- The words an ENCODE carries, position 0 first (R97); how a payload stands on the port is the platform's. -/
def XmitRequest.words : XmitRequest → List Word
  | .encode stream => stream
  | .send _ => []

end Sys2Proof.Machine
end

