-- ==== Sys2Proof/Machine/Ops.lean ====
section
/-! DEFINITION. The named operations over the slot table, the message queue and the output ports (20_memory R50 to R57), shared by the commands and the tick. -/

namespace Sys2Proof.Machine

/-! ### The plan queries, functions of a plan and a number (40_timeslotplan) -/

/-- The slot index of a time: floor(time / 64) mod 16 (R112), over all integers (R7, R88). -/
def indexOf (time : Int) : Nat := (time / 64 % 16).toNat

/-- SLOTS[slot mod 16] (R51, R113). -/
def slotAllowed (plan : Half) (slot : Int) : Bool := plan.getLsbD (slot % 16).toNat

/-- How many slots in a row are allowed from `slot`, counting at most `n` of them. -/
def runWithin (plan : Half) (slot : Int) : Nat → Nat
  | 0 => 0
  | n + 1 => if slotAllowed plan slot then runWithin plan (slot + 1) n + 1 else 0

/-- The run of allowed slots from `slot`, wrapping, capped at 16 (R114). -/
def allowedRun (plan : Half) (slot : Int) : Nat := runWithin plan slot 16

/-- Whether the slot after the one of `time` is allowed (R115). -/
def nextAllowed (plan : Half) (time : Int) : Bool := slotAllowed plan (indexOf time + 1)

/-- The least j in 1..16 whose slot, j after the one of `time`, is allowed (R116). -/
def nextDistance (plan : Half) (time : Int) : Option Nat :=
  (List.range' 1 16).find? fun j => slotAllowed plan (indexOf time + j)

/-- Ticks to the start of the next allowed slot, none where no slot is allowed (R116). -/
def timeToNext (plan : Half) (time : Int) : Option Int :=
  (nextDistance plan time).map fun (j : Nat) => 64 * (j : Int) - time % 64

/-- The tick's comparison timeToNextSlot(time) <= 3; none compares false (R116, R141). -/
def leadShort (t : Option Int) : Bool :=
  match t with
  | some d => d ≤ 3
  | none => false

/-! ### Hidden and combined views of the state -/

/-- TICK_BUSY (10_state R30). -/
def State.tickBusy (s : State) : Bool := s.tick.isSome

/-- The stream buffer: the stream of the BUILD or of the encode call in progress, else empty (10_state R32). -/
def State.streamBuffer (s : State) : List Word :=
  match s.tick with
  | some (.buildPop b) => b.stream
  | some (.buildTest b _) => b.stream
  | some (.buildNofit b _) => b.stream
  | some (.buildResult b) => b.stream
  | some (.encodeCall _ _ stream) => stream
  | _ => []

/-- 1 while a BUILD is between its pop and the return or the consumption of that message, else 0 (43_interfaces R202). -/
def State.held (s : State) : Nat :=
  match s.tick with
  | some (.buildTest _ _) => 1
  | _ => 0

/-- The queue has no room for a push: len(MQ) + held = QDEPTH, never when unbounded (R201, R202). -/
def State.queueFull (s : State) : Bool :=
  match s.params.qdepth with
  | some depth => s.mq.length + s.held == depth
  | none => false

/-! ### What goes out -/

/-- Append one element to the output trace (R33). -/
def State.out (s : State) (o : Output) : State := { s with trace := s.trace ++ [o] }

/-- respond(status, result) on a port (R8, R86). -/
def State.respond (s : State) (p : Port) (st : Status) (result : Half) : State :=
  s.out (.response p (responseWord st result))

/-- refuse(code): the response with result 0 and no state written (R8, R221). -/
def State.refuse (s : State) (p : Port) (st : Status) : State := s.respond p st 0

/-- emit E: an event word on the event port (R98, R208, R209). -/
def State.emit (s : State) (e : Event) : State := s.out (.event e.word)

/-! ### The slot table and the message queue -/

/-- Replace all sixteen slots at once (R21, R111). -/
def State.setPlan (s : State) (plan : Half) : State := { s with slots := plan }

/-- MQ.push: appends to the tail (R52, R202). -/
def State.push (s : State) (m : Message) : State := { s with mq := s.mq ++ [m] }

/-- MQ.pushFront: reinserts at the head (R204). -/
def State.pushFront (s : State) (m : Message) : State := { s with mq := m :: s.mq }

/-- MQ.pop: the head, if there is one, and the queue without it (R203). -/
def State.pop (s : State) : Option (Message × State) :=
  match s.mq with
  | [] => none
  | m :: rest => some (m, { s with mq := rest })

/-- MQ.isEmpty (R205). -/
def State.queueEmpty (s : State) : Bool := s.mq.isEmpty

/-! ### The tick in progress -/

/-- The tick goes on to the micro-step `pos`. -/
def State.goto (s : State) (pos : TickPos) : State := { s with tick := some pos }

/-- Accepting a TICK sets TICK_BUSY and latches WALL (R131). -/
def State.acceptTick (s : State) (wall : Half) : State := s.goto (.t0 wall)

/-- The tick's end: TICK_BUSY cleared, the tick-local values dropped, the TICK answered OK 0 (R86, R147). -/
def State.endTick (s : State) : State := { s with tick := none }.respond .tick .ok 0

/-- STATE written by the tick (R25). -/
def State.setSched (s : State) (st : SchedState) : State := { s with sched := st }

end Sys2Proof.Machine
end

