-- ==== Sys2Proof/Machine/Flags.lean ====
section
/-! DEFINITION. The one-bit flags of 10_state R34 and what is written with them: LASTVALID with LASTIDX, PAYLOAD_VALID with PAYLOAD, CANCEL, OBS_EN. -/

namespace Sys2Proof.Machine

/-- Whether hasChanged(time) answers true: no index observed yet, or another one (R117). -/
def State.slotChanged (s : State) (time : Int) : Bool :=
  s.lastValid == false || s.lastIdx != BitVec.ofNat 4 (indexOf time)

/-- The state after hasChanged(time): the index observed, where it answers true (R117). -/
def State.observe (s : State) (time : Int) : State :=
  if s.slotChanged time then { s with lastValid := true, lastIdx := BitVec.ofNat 4 (indexOf time) } else s

/-- A successful encode: PAYLOAD stored, PAYLOAD_VALID set (R26, R143, R146). -/
def State.storePayload (s : State) (p : Payload) : State := { s with payload := p, payloadValid := true }

/-- The send attempt has been made: PAYLOAD_VALID cleared (R34, R144). -/
def State.dropPayload (s : State) : State := { s with payloadValid := false }

/-- CANCEL set (R28, R153). -/
def State.setCancel (s : State) : State := { s with cancel := true }

/-- OBS_EN written (R29, R154). -/
def State.setObserver (s : State) (enable : Bool) : State := { s with obsEn := enable }

end Sys2Proof.Machine
end

