-- ==== Sys2Proof/Machine/MessageQueue.lean ====
section
/-! DEFINITION. The message queue's commands (43_interfaces R200 to R202, R205, R210). -/

namespace Sys2Proof.Machine

/-- QPUSH (R202): BAD_MESSAGE before QUEUE_FULL (R228 c), else appended at the tail. -/
def execQpush (msg : Message) (s : State) : Host.Outcome State Fault Refusal :=
  if messageOk msg = false then .next (s.refuse .host .badMessage)
  else if s.queueFull then .next (s.refuse .host .queueFull)
  else .next ((s.push msg).respond .host .ok 0)

/-- QEMPTY (R205). -/
def execQempty (s : State) : Host.Outcome State Fault Refusal :=
  .next (s.respond .host .ok (bit s.queueEmpty))

end Sys2Proof.Machine
end

