-- ==== Sys2Proof/Machine/Scheduler.lean ====
section
/-! DEFINITION. The Scheduler's commands (41_scheduler R131, R150 to R154). What a tick does after its acceptance is in Tick.lean. -/

namespace Sys2Proof.Machine

/-- TICK (R131): accepted when TICK_BUSY = 0, which sets TICK_BUSY and latches WALL; the micro-steps follow, and the answer comes at the tick's end (R86, R147).
While TICK_BUSY = 1 it is not refused: the word waits on the tick port (R222; log entry 12). -/
def execTick (wall : Half) (s : State) : Host.Outcome State Fault Refusal :=
  if s.tickBusy then .next { s with tickPort := commandWord .tick wall :: s.tickPort }
  else .next (s.acceptTick wall)

/-- GETTIME (R150): the value of the last T1, not a new sample. -/
def execGettime (s : State) : Host.Outcome State Fault Refusal :=
  .next (s.respond .host .ok s.time)

/-- CORRECTTIME (R151): CORR <- (CORR + delta) mod 65536 in one step. -/
def execCorrecttime (delta : Half) (s : State) : Host.Outcome State Fault Refusal :=
  .next ({ s with corr := half (s.corr.toNat + deltaArg delta) }.respond .host .ok 0)

/-- CANCEL (R153). -/
def execCancel (s : State) : Host.Outcome State Fault Refusal :=
  .next (s.setCancel.respond .host .ok 0)

/-- SETOBSERVER (R154). -/
def execSetobserver (enable : Bool) (s : State) : Host.Outcome State Fault Refusal :=
  .next ((s.setObserver enable).respond .host .ok 0)

end Sys2Proof.Machine
end

