-- ==== Sys2Proof/Machine/TimeSlotPlan.lean ====
section
/-! DEFINITION. The TimeSlotPlan commands (40_timeslotplan R110 to R117). Each is one atomic step and answers on the host port. -/

namespace Sys2Proof.Machine

/-- SETSLOTS (R111): a character that is no hex digit refuses the whole command; otherwise all sixteen slots are replaced. -/
def execSetslots (chars : List Byte) (s : State) : Host.Outcome State Fault Refusal :=
  match planOf chars with
  | none => .next (s.refuse .host .badDigit)
  | some plan => .next ((s.setPlan plan).respond .host .ok 0)

/-- ISALLOWED (R113). -/
def execIsallowed (slot : Half) (s : State) : Host.Outcome State Fault Refusal :=
  .next (s.respond .host .ok (bit (slotAllowed s.slots (slotArg slot))))

/-- ALLOWEDRUN (R114). -/
def execAllowedrun (slot : Half) (s : State) : Host.Outcome State Fault Refusal :=
  .next (s.respond .host .ok (half (allowedRun s.slots (slotArg slot))))

/-- INDEXOF (R112). -/
def execIndexof (time : Half) (s : State) : Host.Outcome State Fault Refusal :=
  .next (s.respond .host .ok (half (indexOf (timeArg time))))

/-- ISNEXTALLOWED (R115). -/
def execIsnextallowed (time : Half) (s : State) : Host.Outcome State Fault Refusal :=
  .next (s.respond .host .ok (bit (nextAllowed s.slots (timeArg time))))

/-- TIMETONEXT (R116): none is RESULT 0. -/
def execTimetonext (time : Half) (s : State) : Host.Outcome State Fault Refusal :=
  .next (s.respond .host .ok (half ((timeToNext s.slots (timeArg time)).getD 0)))

/-- HASCHANGED (R117): compare and replace in one step. -/
def execHaschanged (time : Half) (s : State) : Host.Outcome State Fault Refusal :=
  .next ((s.observe (timeArg time)).respond .host .ok (bit (s.slotChanged (timeArg time))))

end Sys2Proof.Machine
end

