-- ==== Sys2Proof/Machine/Dispatch.lean ====
section
/-! DEFINITION. One arm per constructor of Instr (30_encoding R84 step 6). -/

namespace Sys2Proof.Machine

/-- A command performs its rule (R84 step 6). -/
def exec (i : Instr) (s : State) : Host.Outcome State Fault Refusal :=
  match i with
  | .setslots chars => Sys2Proof.Machine.execSetslots chars s
  | .isallowed slot => Sys2Proof.Machine.execIsallowed slot s
  | .allowedrun slot => Sys2Proof.Machine.execAllowedrun slot s
  | .indexof time => Sys2Proof.Machine.execIndexof time s
  | .isnextallowed time => Sys2Proof.Machine.execIsnextallowed time s
  | .timetonext time => Sys2Proof.Machine.execTimetonext time s
  | .haschanged time => Sys2Proof.Machine.execHaschanged time s
  | .tick wall => Sys2Proof.Machine.execTick wall s
  | .gettime => Sys2Proof.Machine.execGettime s
  | .correcttime delta => Sys2Proof.Machine.execCorrecttime delta s
  | .cancel => Sys2Proof.Machine.execCancel s
  | .setobserver enable => Sys2Proof.Machine.execSetobserver enable s
  | .qpush msg => Sys2Proof.Machine.execQpush msg s
  | .qempty => Sys2Proof.Machine.execQempty s

end Sys2Proof.Machine
end

