-- ==== Sys2Proof/Machine/BatchBuilder.lean ====
section
/-! DEFINITION. BUILD (42_batchbuilder R170 to R182): the capacity, the estimate, the striping of a message, and BUILD's micro-steps on the shared queue. -/

namespace Sys2Proof.Machine

/-- maxBatches = floor(3 (6400 slotCount - 480 - DELAY_MS) / 1360), exactly, toward minus infinity (R171, C10). -/
def maxBatches (p : Params) (slotCount : Nat) : Int :=
  3 * (6400 * (slotCount : Int) - 480 - (p.delayMs.toNat : Int)) / 1360

/-- The 18 preamble words at the head of a stream (R172). -/
def preamble (p : Params) : List Word := List.replicate 18 p.wPreamble

/-- framePos = m[0] (R174). A queued message has an element 0 (R210). -/
def framePos (m : Message) : Nat := (m.headD 0).toNat

/-- The payload codewords m[1..] (R174). -/
def payloadOf (m : Message) : List Word := m.tail

/-- n = payloadLen + 2 framePos, the payload positions a message takes before padding (R174). -/
def positionsOf (m : Message) : Nat := (payloadOf m).length + 2 * framePos m

/-- currentBatches = (len(stream) - 18) div 17 (R174). -/
def currentBatches (stream : List Word) : Nat := (stream.length - 18) / 17

/-- neededBatches = currentBatches + ceil(n / 16) + 1 (R174). -/
def neededBatches (stream : List Word) (m : Message) : Nat :=
  currentBatches stream + (positionsOf m + 15) / 16 + 1

/-- (len(stream) - 18) mod 17 = 0: the next word opens a batch (R55, R176). -/
def batchAligned (stream : List Word) : Bool := (stream.length - 18) % 17 == 0

/-- One payload word, after an extra SYNC where it would land on a batch boundary (R176). -/
def appendPayloadWord (p : Params) (stream : List Word) (w : Word) : List Word :=
  (if batchAligned stream then stream ++ [p.wSync] else stream) ++ [w]

/-- The padding loop: IDLE until the stream is batch aligned, at most n of them (R176). -/
def padBatch (p : Params) (stream : List Word) : Nat → List Word
  | 0 => stream
  | n + 1 => if batchAligned stream then stream else padBatch p (stream ++ [p.wIdle]) n

/-- The stream after a message that fits: SYNC, 2 framePos IDLE, the payload words with the extra SYNCs, the padding (R176).
A batch is 17 words, so the padding loop runs at most 16 times. -/
def appendMessage (p : Params) (stream : List Word) (m : Message) : List Word :=
  padBatch p ((payloadOf m).foldl (appendPayloadWord p)
    (stream ++ [p.wSync] ++ List.replicate (2 * framePos m) p.wIdle)) 16

/-- BUILD's start: steps 1 and 2, local to the tick (R171, R172). -/
def startBuild (p : Params) (arm : Arm) (time : Half) (run : Nat) : BuildLocals where
  arm := arm
  time := time
  maxBatches := maxBatches p run
  stream := preamble p
  consumed := 0

/-- The BUILD locals after a message that fits (R176). -/
def consumeMessage (p : Params) (b : BuildLocals) (m : Message) : BuildLocals :=
  { b with stream := appendMessage p b.stream m, consumed := b.consumed + 1 }

/-- The loop's MQ.pop: with an empty queue the loop is left (R174). -/
def tickBuildPop (b : BuildLocals) (s : State) : State :=
  match s.pop with
  | none => s.goto (.buildResult b)
  | some (m, s') => s'.goto (.buildTest b m)

/-- The test: a message that does not fit goes back to the head and the loop is left, by way of the diagnostic if nothing was consumed (R175); one that fits is striped into the stream and the loop goes on (R176). -/
def tickBuildTest (b : BuildLocals) (m : Message) (s : State) : State :=
  if (neededBatches b.stream m : Int) > b.maxBatches then
    if b.consumed = 0 then (s.pushFront m).goto (.buildNofit b (neededBatches b.stream m))
    else (s.pushFront m).goto (.buildResult b)
  else s.goto (.buildPop (consumeMessage s.params b m))

/-- The no-fit diagnostic (R175, R182). -/
def tickBuildNofit (b : BuildLocals) (needed : Nat) (s : State) : State :=
  (s.emit (.logNofit needed b.maxBatches)).goto (.buildResult b)

/-- BUILD's result: the stream if a message was consumed, else nothing, after which both arms are in AWAITING_SLOT (R142, R145, R177). -/
def tickBuildResult (b : BuildLocals) (s : State) : State :=
  if b.consumed = 0 then
    match b.arm with
    | .awaiting => s.goto .finish
    | .still => (s.setSched .awaitingSlot).goto .finish
  else s.goto (.encodeCall b.arm b.time b.stream)

end Sys2Proof.Machine
end

