-- ==== Sys2Proof/Machine/Tick.lean ====
section
/-! DEFINITION. The micro-steps of a tick (41_scheduler R130 to R147). Each is one atomic action on the shared state; host commands may come between any two (20_memory R61; log entry 8). -/

namespace Sys2Proof.Machine

/-- T0 (R132): a cancelled tick goes to its end. -/
def tickT0 (wall : Half) (s : State) : State :=
  if s.cancel then s.goto .finish else s.goto (.t1 wall)

/-- The time of a tick: (WALL + CORR) mod 65536 (R133). -/
def tickTime (wall : Half) (s : State) : Half := half (wall.toNat + s.corr.toNat)

/-- T1 (R133): TIME written, and kept as the tick-local time. -/
def tickT1 (wall : Half) (s : State) : State :=
  { s with time := tickTime wall s }.goto (.t2 (tickTime wall s))

/-- T2 (R134): hasChanged, whether or not an observer is registered. -/
def tickT2 (time : Half) (s : State) : State :=
  (s.observe (timeArg time)).goto (.t3 time (s.slotChanged (timeArg time)))

/-- T3 (R135): the observer is notified with the plan as it is now. -/
def tickT3 (time : Half) (ch : Bool) (s : State) : State :=
  if ch && s.obsEn then (s.emit (.obsNotify s.slots)).goto (.t4 time) else s.goto (.t4 time)

/-- T4 (R136): STATE is read once and selects the arm. -/
def tickT4 (time : Half) (s : State) : State :=
  match s.sched with
  | .awaitingSlot => s.goto (.awaitNext time)
  | .dataEncoded => s.goto (.sendGuard time)
  | .slotStillAllowed => s.goto (.stillGuard time)

/-- AWAITING_SLOT: a = isNextAllowed(time) (R141). -/
def tickAwaitNext (time : Half) (s : State) : State :=
  s.goto (.awaitQueue time (nextAllowed s.slots (timeArg time)))

/-- AWAITING_SLOT: q = not MQ.isEmpty() (R141). -/
def tickAwaitQueue (time : Half) (a : Bool) (s : State) : State :=
  s.goto (.awaitLead time a (!s.queueEmpty))

/-- AWAITING_SLOT: t = timeToNextSlot(time), and the decision (R141). -/
def tickAwaitLead (time : Half) (a q : Bool) (s : State) : State :=
  if a && q && leadShort (timeToNext s.slots (timeArg time)) then s.goto (.awaitRun time) else s.goto .finish

/-- AWAITING_SLOT: run = allowedRun(indexOf(time) + 1), and BUILD starts (R142). -/
def tickAwaitRun (time : Half) (s : State) : State :=
  s.goto (.buildPop (startBuild s.params .awaiting time (allowedRun s.slots (indexOf (timeArg time) + 1))))

/-- DATA_ENCODED: keep waiting while the current slot is disallowed (R144). -/
def tickSendGuard (time : Half) (s : State) : State :=
  if slotAllowed s.slots (indexOf (timeArg time)) then s.goto (.sendCall time) else s.goto .finish

/-- DATA_ENCODED: the SEND request carries the stored payload (R97, R144, R207). -/
def tickSendCall (time : Half) (s : State) : State :=
  (s.out (.request (.send s.payload))).goto (.sendWait time)

/-- DATA_ENCODED: the answer arrives (R207). -/
def tickSendAnswer (time : Half) (a : SendAnswer) (s : State) : State :=
  (s.out (.sendAnswer a)).goto (.sendDone time a)

/-- DATA_ENCODED: the outcome, the same but for the log whether the send failed or not (R144, R225). -/
def tickSendDone (time : Half) (a : SendAnswer) (s : State) : State :=
  match a with
  | .ok => (s.dropPayload.setSched .slotStillAllowed).goto .finish
  | .fail => ((s.emit (.logSendFail time)).dropPayload.setSched .slotStillAllowed).goto .finish

/-- SLOT_STILL_ALLOWED: a disallowed slot ends it (R145). -/
def tickStillGuard (time : Half) (s : State) : State :=
  if slotAllowed s.slots (indexOf (timeArg time)) then s.goto (.stillQueue time)
  else (s.setSched .awaitingSlot).goto .finish

/-- SLOT_STILL_ALLOWED: an empty queue leaves it as it is (R145, D11). -/
def tickStillQueue (time : Half) (s : State) : State :=
  if s.queueEmpty then s.goto .finish else s.goto (.stillRun time)

/-- SLOT_STILL_ALLOWED: run = allowedRun(indexOf(time)), the current slot counted whole, and BUILD starts (R145, R257). -/
def tickStillRun (time : Half) (s : State) : State :=
  s.goto (.buildPop (startBuild s.params .still time (allowedRun s.slots (indexOf (timeArg time)))))

/-- The ENCODE request carries the stream (R97, R142, R145, R206). -/
def tickEncodeCall (arm : Arm) (time : Half) (stream : List Word) (s : State) : State :=
  (s.out (.request (.encode stream))).goto (.encodeWait arm time)

/-- The answer to the ENCODE arrives (R206). -/
def tickEncodeAnswer (arm : Arm) (time : Half) (a : EncodeAnswer) (s : State) : State :=
  (s.out (.encodeAnswer a)).goto (.encodeDone arm time a)

/-- STATE at the start of a tick that ran this arm (R136, R224). -/
def Arm.startState : Arm → SchedState
  | .awaiting => .awaitingSlot
  | .still => .slotStillAllowed

/-- The outcome of the ENCODE: stored and DATA_ENCODED, or logged and AWAITING_SLOT in both arms (R143, R146, R224, C4; log entry 10). -/
def tickEncodeDone (arm : Arm) (time : Half) (a : EncodeAnswer) (s : State) : State :=
  match a, arm with
  | .ok p, _ => ((s.storePayload p).setSched .dataEncoded).goto .finish
  | .fail, .awaiting => (s.emit (.logEncodeFail arm.startState time)).goto .finish
  | .fail, .still => ((s.emit (.logEncodeFail arm.startState time)).setSched .awaitingSlot).goto .finish

/-- The micro-step the tick engine takes at a position; while a request is outstanding it takes none (R97). -/
def microStep (pos : TickPos) (s : State) : State :=
  match pos with
  | .t0 wall => tickT0 wall s
  | .t1 wall => tickT1 wall s
  | .t2 time => tickT2 time s
  | .t3 time ch => tickT3 time ch s
  | .t4 time => tickT4 time s
  | .awaitNext time => tickAwaitNext time s
  | .awaitQueue time a => tickAwaitQueue time a s
  | .awaitLead time a q => tickAwaitLead time a q s
  | .awaitRun time => tickAwaitRun time s
  | .sendGuard time => tickSendGuard time s
  | .sendCall time => tickSendCall time s
  | .sendWait _ => s
  | .sendDone time a => tickSendDone time a s
  | .stillGuard time => tickStillGuard time s
  | .stillQueue time => tickStillQueue time s
  | .stillRun time => tickStillRun time s
  | .buildPop b => tickBuildPop b s
  | .buildTest b m => tickBuildTest b m s
  | .buildNofit b needed => tickBuildNofit b needed s
  | .buildResult b => tickBuildResult b s
  | .encodeCall arm time stream => tickEncodeCall arm time stream s
  | .encodeWait _ _ => s
  | .encodeDone arm time a => tickEncodeDone arm time a s
  | .finish => s.endTick

/-- Whether the position waits for the Transmitter (R97, R207). -/
def TickPos.waiting : TickPos → Bool
  | .sendWait _ => true
  | .encodeWait _ _ => true
  | _ => false

end Sys2Proof.Machine
end

