-- ==== Sys2Proof/Machine/Agents.lean ====
section
/-! DEFINITION. How each agent takes its step, what a listed turn does, and who moves where no turn is listed (00_scope R9, R10; 20_memory R60, R61; 30_encoding R84; 70 R250). -/

namespace Sys2Proof.Machine

/-- The words of a command not yet complete on the host port are dropped with it at reset: a command in progress gets no response (R250; log entry 7). -/
def withoutPartial (words : List Word) : List Word :=
  match decode .host words with
  | .incomplete => []
  | _ => words

/-- The reset input (R250): every piece of the engine's state at its reset value, whatever was in progress abandoned.
What the outside world holds stays: the parameters, complete words not yet taken, the later turns, the model's own counter. -/
def State.afterReset (s : State) : State :=
  { State.reset with
    params := s.params
    hostPort := withoutPartial s.hostPort
    tickPort := s.tickPort
    turns := s.turns
    draws := s.draws }

/-- The host port's next command, whole and in one step (R84): a word that spells no command here is answered ILLEGAL_CMD and consumed, a command is performed, an incomplete one waits. -/
def hostMove (s : State) : Host.Outcome State Fault Refusal :=
  match decode .host s.hostPort with
  | .command i rest => exec i { s with hostPort := rest }
  | .illegal _ rest => .next ({ s with hostPort := rest }.refuse .host .illegalCmd)
  | .incomplete => .next s

/-- The tick engine: with a tick in progress its next micro-step, the tick port accepting nothing (R131); else the tick port's next word (R84). -/
def tickMove (s : State) : Host.Outcome State Fault Refusal :=
  match s.tick with
  | some pos => .next (microStep pos s)
  | none =>
    match decode .tick s.tickPort with
    | .command i rest => exec i { s with tickPort := rest }
    | .illegal _ rest => .next ({ s with tickPort := rest }.refuse .tick .illegalCmd)
    | .incomplete => .next s

/-- An answer to the outstanding ENCODE; with none outstanding it is ignored (R206, R250).
DESIGN CHOICE (log entry 25): an answer carries no tag (R97), so every such turn is taken as the outstanding request's. -/
def encodeAnswerMove (a : EncodeAnswer) (s : State) : State :=
  match s.tick with
  | some (.encodeWait arm time) => tickEncodeAnswer arm time a s
  | _ => s

/-- An answer to the outstanding SEND; with none outstanding it is ignored (R207, R250).
DESIGN CHOICE (log entry 25): as for the ENCODE, every such turn is taken as the outstanding request's. -/
def sendAnswerMove (a : SendAnswer) (s : State) : State :=
  match s.tick with
  | some (.sendWait time) => tickSendAnswer time a s
  | _ => s

/-- What a listed turn does. A breach of the platform's obligations has no meaning (R10, R66, R253, U16); a tick forced while none is in progress is an ordinary one. -/
def takeTurn (t : Turn) (s : State) : Host.Outcome State Fault Refusal :=
  match t with
  | .host => hostMove s
  | .tick => tickMove s
  | .encodeAnswer a => .next (encodeAnswerMove a s)
  | .sendAnswer a => .next (sendAnswerMove a s)
  | .reset => .next s.afterReset
  | .forcedTick => if s.tickBusy then .refused .overlappingTicks else tickMove s
  | .foreignPop => .refused .secondConsumer

/-- Words that can be acted on wait on this port. -/
def portReady (p : Port) (words : List Word) : Bool :=
  match decode p words with
  | .incomplete => false
  | _ => true

/-- The host can move. -/
def State.hostReady (s : State) : Bool := portReady .host s.hostPort

/-- The tick engine can move: a tick in progress that is not waiting for the Transmitter, or none and a word on the tick port. -/
def State.tickReady (s : State) : Bool :=
  match s.tick with
  | some pos => !pos.waiting
  | none => portReady .tick s.tickPort

/-- Where no turn is listed, whichever agent can move does; where both can, the order is a free value (R61, R228 d; log entry 4); where neither can, the engine stays as it is (R38). -/
def freeMove (s : State) : Host.Outcome State Fault Refusal :=
  match s.hostReady, s.tickReady with
  | true, true =>
    if Config.hostFirst s.draws then hostMove { s with draws := s.draws + 1 }
    else tickMove { s with draws := s.draws + 1 }
  | true, false => hostMove s
  | false, true => tickMove s
  | false, false => .next s

/-- One step: the first listed turn, or a free move. -/
def nextMove (s : State) : Host.Outcome State Fault Refusal :=
  match s.turns with
  | t :: later => takeTurn t { s with turns := later }
  | [] => freeMove s

/-- The words `ws` put where the next step takes a command from port `p`, and that agent's turn listed first. For the tick port no tick may be in progress (R131). -/
def State.present (s : State) (p : Port) (ws : List Word) : State :=
  match p with
  | .host => { s with hostPort := ws ++ s.hostPort, turns := .host :: s.turns }
  | .tick => { s with tick := none, tickPort := ws ++ s.tickPort, turns := .tick :: s.turns }

/-- The port that takes a command word: the tick port for TICK, else the host port (R83). -/
def portOfWords (ws : List Word) : Port :=
  match decode .tick ws with
  | .command _ _ => .tick
  | _ => .host

end Sys2Proof.Machine
end

