-- ==== Sys2Proof/Machine/Step.lean ====
section
/-! DEFINITION. The step, and the place where it fetches its next command. -/

namespace Sys2Proof.Machine

/-- One atomic action of one agent (00_scope R9, 20_memory R60). -/
def step (s : State) : Host.Outcome State Fault Refusal := nextMove s

/-- The state with the opcode-table word w of nbits bits presented where the very next step takes it. -/
def State.withFetchWord (s : State) (nbits w : Nat) : State :=
  s.present (portOfWords (tableWords nbits w)) (tableWords nbits w)

end Sys2Proof.Machine
end

