-- ==== Sys2Proof/Safety.lean ====
section
/-! DEFINITION. The terms the claims use: the opcode table as data, the shape of a stream, BUILD and the tick as whole functions, a tick run alone, the invariant. -/

namespace Sys2Proof.Machine

/-! ### The opcode table, row for row as spec/opcode_table.json has it -/

/-- A row: match, mask and port. -/
structure TableRow where
  value : Word
  mask : Word
  port : Port
  deriving DecidableEq, Repr

/-- The 14 rows of spec/opcode_table.json in its order. -/
def tableRows : List TableRow :=
  [⟨0x10000000, 0xFFFF0000, .host⟩, ⟨0x11000000, 0xFFFF0000, .host⟩, ⟨0x12000000, 0xFFFF0000, .host⟩,
   ⟨0x13000000, 0xFFFF0000, .host⟩, ⟨0x14000000, 0xFFFF0000, .host⟩, ⟨0x15000000, 0xFFFF0000, .host⟩,
   ⟨0x16000000, 0xFFFF0000, .host⟩, ⟨0x20000000, 0xFFFF0000, .tick⟩, ⟨0x21000000, 0xFFFFFFFF, .host⟩,
   ⟨0x22000000, 0xFFFF0000, .host⟩, ⟨0x23000000, 0xFFFFFFFF, .host⟩, ⟨0x24000000, 0xFFFFFFFE, .host⟩,
   ⟨0x40000000, 0xFFFF0000, .host⟩, ⟨0x43000000, 0xFFFFFFFF, .host⟩]

/-- The word selects a row of the table for this port: (w & mask) == match (30_encoding R84). -/
abbrev InTable (p : Port) (w : Word) : Prop := ∃ r ∈ tableRows, r.port = p ∧ w &&& r.mask = r.value

/-! ### Streams -/

/-- 18 preamble words, then batches of 17 words, each opening with SYNC (42_batchbuilder R179 a, b, c). -/
abbrev StreamShape (p : Params) (stream : List Word) : Prop :=
  18 ≤ stream.length ∧ (stream.length - 18) % 17 = 0 ∧ stream.take 18 = preamble p ∧
    ∀ b < (stream.length - 18) / 17, stream[18 + 17 * b]? = some p.wSync

/-- The payload words of whole batches: each group of 17 without its first word (20_memory R53). -/
def payloadPositions : List Word → Nat → List Word
  | _, 0 => []
  | stream, batches + 1 => (stream.take 17).tail ++ payloadPositions (stream.drop 17) batches

/-- The batches a message occupies: max(1, ceil(n / 16)) (R180). -/
def batchesOf (m : Message) : Nat := max 1 ((positionsOf m + 15) / 16)

/-! ### BUILD and the tick as whole functions, for a tick no host command interrupts -/

/-- BUILD's loop on a queue nobody else touches (42_batchbuilder R174 to R176): the locals at its end, the queue left, and the batches needed by a first message that did not fit (R182). -/
def buildLoop (p : Params) (b : BuildLocals) : List Message → BuildLocals × List Message × Option Nat
  | [] => (b, [], none)
  | m :: rest =>
    if (neededBatches b.stream m : Int) > b.maxBatches then
      (b, m :: rest, if b.consumed = 0 then some (neededBatches b.stream m) else none)
    else buildLoop p (consumeMessage p b m) rest

/-- The state after BUILD's queue accesses and its diagnostic, and its locals (R170). -/
def buildWhole (b : BuildLocals) (s : State) : BuildLocals × State :=
  match buildLoop s.params b s.mq with
  | (b', mq', none) => (b', { s with mq := mq' })
  | (b', mq', some needed) => (b', { s with mq := mq' }.emit (.logNofit needed b'.maxBatches))

/-- From BUILD to the outcome of the ENCODE (41_scheduler R142, R143, R145, R146). -/
def buildAndEncode (e : EncodeAnswer) (b : BuildLocals) (s : State) : State :=
  match buildWhole b s with
  | (b', s') =>
    if b'.consumed = 0 then s'.setSched .awaitingSlot
    else
      let asked := (s'.out (.request (.encode b'.stream))).out (.encodeAnswer e)
      match e with
      | .ok p => (asked.storePayload p).setSched .dataEncoded
      | .fail => (asked.emit (.logEncodeFail b'.arm.startState b'.time)).setSched .awaitingSlot

/-- The arm that STATE selects, run to its end (R140 to R146). -/
def wholeArm (e : EncodeAnswer) (a : SendAnswer) (time : Half) (s : State) : State :=
  match s.sched with
  | .awaitingSlot =>
    if nextAllowed s.slots (timeArg time) && !s.queueEmpty && leadShort (timeToNext s.slots (timeArg time)) then
      buildAndEncode e (startBuild s.params .awaiting time (allowedRun s.slots (indexOf (timeArg time) + 1))) s
    else s
  | .dataEncoded =>
    if slotAllowed s.slots (indexOf (timeArg time)) then
      let asked := (s.out (.request (.send s.payload))).out (.sendAnswer a)
      match a with
      | .ok => asked.dropPayload.setSched .slotStillAllowed
      | .fail => (asked.emit (.logSendFail time)).dropPayload.setSched .slotStillAllowed
    else s
  | .slotStillAllowed =>
    if slotAllowed s.slots (indexOf (timeArg time)) then
      if s.queueEmpty then s
      else buildAndEncode e (startBuild s.params .still time (allowedRun s.slots (indexOf (timeArg time)))) s
    else s.setSched .awaitingSlot

/-- A whole tick that no host command interrupts, as one function: T0 to T4, one arm, the end (R132 to R147). -/
def wholeTick (e : EncodeAnswer) (a : SendAnswer) (wall : Half) (s : State) : State :=
  if s.cancel then s.endTick
  else
    let time := tickTime wall s
    let seen := ({ s with time := time }).observe (timeArg time)
    let told := if s.slotChanged (timeArg time) && s.obsEn then seen.emit (.obsNotify s.slots) else seen
    (wholeArm e a time told).endTick

/-- n steps of the machine, stopping at the first fault or refusal. -/
def steps : Nat → State → Host.Outcome State Fault Refusal
  | 0, s => .next s
  | n + 1, s =>
    match step s with
    | .next t => steps n t
    | .fault r => .fault r
    | .refused r => .refused r

/-- The turn by which a tick that runs alone goes on: the answer it waits for, else the tick engine. -/
def ownTurn (e : EncodeAnswer) (a : SendAnswer) (s : State) : Turn :=
  match s.tick with
  | some (.encodeWait _ _) => .encodeAnswer e
  | some (.sendWait _) => .sendAnswer a
  | _ => .tick

/-- At most n steps of the machine in which only the tick in progress moves, the Transmitter answering e to an ENCODE and a to a SEND; it stops when the tick has ended. -/
def tickAlone (e : EncodeAnswer) (a : SendAnswer) : Nat → State → Host.Outcome State Fault Refusal
  | 0, s => .next s
  | n + 1, s =>
    match s.tick with
    | none => .next s
    | some _ =>
      match step { s with turns := ownTurn e a s :: s.turns } with
      | .next t => tickAlone e a n t
      | .fault r => .fault r
      | .refused r => .refused r

/-- The Transmitter requests in a trace, in order (10_state R33). -/
def requestsIn (trace : List Output) : List XmitRequest :=
  trace.filterMap fun o => match o with
    | .request r => some r
    | _ => none

/-- The event words in a trace, in order (10_state R33, 60 R230). -/
def eventsIn (trace : List Output) : List Word :=
  trace.filterMap fun o => match o with
    | .event ev => some ev
    | _ => none

/-- The payload of the last successful ENCODE in a trace, if no SEND has been requested since (41_scheduler R149 c). -/
def lastUnsent (trace : List Output) : Option Payload :=
  trace.foldl (fun held o => match o with
    | .encodeAnswer (.ok p) => some p
    | .request (.send _) => none
    | _ => held) none

/-- The payload the engine is about to store or holds for sending: the one just answered, the stored one in DATA_ENCODED until it is requested to be sent, else none. -/
def State.unsent (s : State) : Option Payload :=
  match s.tick with
  | some (.encodeDone _ _ (.ok p)) => some p
  | some (.sendWait _) => none
  | some (.sendDone _ _) => none
  | _ => if s.sched = .dataEncoded then some s.payload else none

/-! ### The invariant -/

/-- What holds of the locals of a BUILD in progress: the stream's shape, and that it never has more batches than the capacity allows (R179, R180 a); a run of at most 16 slots gives at most 224 (R32, R171). -/
abbrev BuildOk (p : Params) (b : BuildLocals) : Prop :=
  StreamShape p b.stream ∧ b.maxBatches ≤ 224 ∧
    (b.consumed = 0 → b.stream = preamble p) ∧
    (b.consumed ≠ 0 → (currentBatches b.stream : Int) ≤ b.maxBatches ∧ 1 ≤ currentBatches b.stream)

/-- What holds at a position of the tick: the arm that runs is the one STATE selects, since STATE is written only as the arm ends; a BUILD's locals are sound, its popped message is well-formed, its diagnostic is that of a first message. -/
abbrev PosOk (p : Params) (sched : SchedState) : TickPos → Prop
  | .t0 _ | .t1 _ | .t2 _ | .t3 _ _ | .t4 _ | .finish => True
  | .awaitNext _ | .awaitQueue _ _ | .awaitLead _ _ _ | .awaitRun _ => sched = .awaitingSlot
  | .sendGuard _ | .sendCall _ | .sendWait _ | .sendDone _ _ => sched = .dataEncoded
  | .stillGuard _ | .stillQueue _ | .stillRun _ => sched = .slotStillAllowed
  | .buildPop b => BuildOk p b ∧ sched = b.arm.startState
  | .buildTest b m => BuildOk p b ∧ sched = b.arm.startState ∧ messageOk m = true
  | .buildNofit b _ => BuildOk p b ∧ sched = b.arm.startState ∧ b.consumed = 0
  | .buildResult b => BuildOk p b ∧ sched = b.arm.startState
  | .encodeCall arm _ stream => StreamShape p stream ∧ 35 ≤ stream.length ∧ stream.length ≤ 3826 ∧ sched = arm.startState
  | .encodeWait arm _ => sched = arm.startState
  | .encodeDone arm _ _ => sched = arm.startState

/-- The invariant of the machine: a payload is held while STATE is DATA_ENCODED (R26), every queued message is well-formed (R31, R210), a finite queue depth is never exceeded, the place of a popped message counted (R201), and the tick's position is sound. -/
structure State.Inv (s : State) : Prop where
  payload_held : s.sched = .dataEncoded → s.payloadValid = true
  messages_ok : ∀ m ∈ s.mq, messageOk m = true
  depth_kept : ∀ depth, s.params.qdepth = some depth → s.mq.length + s.held ≤ depth
  position_ok : ∀ pos, s.tick = some pos → PosOk s.params s.sched pos

/-- Cancelled, and no tick past its cancel check: the engine has fallen silent toward the Transmitter (41_scheduler R153). -/
abbrev State.Silenced (s : State) : Prop :=
  s.cancel = true ∧
    match s.tick with
    | none => True
    | some (.t0 _) => True
    | some .finish => True
    | _ => False

end Sys2Proof.Machine
end

