-- ==== Sys2Proof/Certificates/Slice0/Obligations.lean ====
section
/-! DEFINITION. The statements for the provers. A response with status OK is the word of its result; other statuses stand in bits 31 to 24 (30_encoding R86, R87). -/

open Sys2Proof Sys2Proof.Machine

/-! ### Encoding -/

/-- R81, R82, R83, R93, R95: on the port of its row, the words of a well-formed command decode to that command, with whatever words follow left over. -/
def Obligations.DecodeInvertsEncode : Prop :=
  ∀ (i : Instr) (rest : List Word), i.WellFormed → decode i.port (encode i ++ rest) = .command i rest

/-- Vector V-E1: words written out from the spec, one per family and format. -/
def Obligations.WrittenOutWordsDecode : Prop :=
  decode .host [0x10000004, 0x63383430] = .command (.setslots [0x30, 0x34, 0x38, 0x63]) [] ∧
  decode .host [0x150000BD] = .command (.timetonext 189) [] ∧
  decode .tick [0x200000FD] = .command (.tick 253) [] ∧
  decode .host [0x2200FF38] = .command (.correcttime (BitVec.ofInt 16 (-200))) [] ∧
  decode .host [0x24000001] = .command (.setobserver true) [] ∧
  decode .host [0x40000002, 0x3, 0x11111111] = .command (.qpush [3, 0x11111111]) [] ∧
  decode .host [0x43000000] = .command .qempty []

/-- R84, R85: the decoder calls a first word illegal exactly when no row of the opcode table for that port selects it; that it then consumes that one word, of a refused variable-length header too, is the model's reading (log entry 14; R84 leaves the framing to the platform, D29). -/
def Obligations.IllegalExactlyOutsideTheTable : Prop :=
  ∀ (p : Port) (w : Word) (rest : List Word),
    (¬ InTable p w ↔ ∃ why, decode p (w :: rest) = .illegal why rest) ∧
    ∀ why left, decode p (w :: rest) = .illegal why left → left = rest

/-- R82, R84 step 5: a command taken from a port is a well-formed command of that port, and the words taken are its header, which carries its row and its ARG, and then its operand words: the list itself for QPUSH (R95), the packed characters for SETSLOTS (R93), none for the others; the words left are those after them. -/
def Obligations.DecodeTakesExactlyTheCommand : Prop :=
  ∀ (p : Port) (ws : List Word) (i : Instr) (rest : List Word), decode p ws = .command i rest →
    i.WellFormed ∧ i.port = p ∧
    ∃ w ops, ws = w :: (ops ++ rest) ∧ ops.length = i.operands.length ∧
      w.rsv = 0 ∧ Op.ofCode w.opc = some i.op ∧ w.arg = i.arg ∧
      (∀ msg, i = .qpush msg → ops = msg) ∧
      (∀ chars, i = .setslots chars → unpackChars chars.length ops = chars) ∧
      (i.op ≠ .qpush → i.op ≠ .setslots → ops = [])

/-! ### The step -/

/-- On the host's turn, or with no turn listed and the host alone able to move, the words that decode to a command are taken and the step is that command's. -/
def Obligations.HostStepRunsTheDecodedCommand : Prop :=
  ∀ (s : State) (i : Instr) (rest : List Word), decode .host s.hostPort = .command i rest →
    (∀ later, s.turns = .host :: later → step s = exec i { s with hostPort := rest, turns := later }) ∧
    (s.turns = [] → s.tickReady = false → step s = exec i { s with hostPort := rest })

/-- R38, R61, R228 (d): with no turn listed an engine that can do nothing stays as it is, and where host and tick engine can both move the step is the one's move or the other's; which is a free value, the model's choice (log entry 4). -/
def Obligations.UnlistedTurnMovesOneAgent : Prop :=
  ∀ s : State, s.turns = [] →
    (s.hostReady = false → s.tickReady = false → step s = .next s) ∧
    (s.hostReady = true → s.tickReady = true →
      step s = takeTurn .host { s with draws := s.draws + 1 } ∨
      step s = takeTurn .tick { s with draws := s.draws + 1 })

/-- On the tick engine's turn, or with no turn listed and the tick engine alone able to move, and no tick in progress, the words that decode to a command are taken and the step is that command's. -/
def Obligations.TickStepRunsTheDecodedCommand : Prop :=
  ∀ (s : State) (i : Instr) (rest : List Word), s.tick = none → decode .tick s.tickPort = .command i rest →
    (∀ later, s.turns = .tick :: later → step s = exec i { s with tickPort := rest, turns := later }) ∧
    (s.turns = [] → s.hostReady = false → step s = exec i { s with tickPort := rest })

/-- R85, R221: a word that selects no row for its port is answered ILLEGAL_CMD with result 0, and nothing else changes but that the one word is consumed (log entry 14). -/
def Obligations.IllegalWordIsAnswered : Prop :=
  ∀ (s : State) (later : List Turn) (w : Word) (rest : List Word),
    (s.turns = .host :: later → s.hostPort = w :: rest → ¬ InTable .host w →
      step s = .next { s with turns := later, hostPort := rest, trace := s.trace ++ [.response .host 0x01000000] }) ∧
    (s.turns = .tick :: later → s.tick = none → s.tickPort = w :: rest → ¬ InTable .tick w →
      step s = .next { s with turns := later, tickPort := rest, trace := s.trace ++ [.response .tick 0x01000000] })

/-- R82, R84: a variable-length command waits, with no effect, until its operand words are there; that words wait in a list is the model's choice (log entry 5). -/
def Obligations.IncompleteCommandWaits : Prop :=
  ∀ (s : State) (later : List Turn) (w : Word) (rest : List Word),
    s.turns = .host :: later → s.hostPort = w :: rest →
    (w.toNat / 65536 = 0x1000 ∧ rest.length < (w.toNat % 65536 + 3) / 4 ∨
      w.toNat / 65536 = 0x4000 ∧ rest.length < w.toNat % 65536) →
    step s = .next { s with turns := later }

/-- R131, R222: while a tick is in progress the tick port accepts nothing, and a TICK that arrives waits there; that it goes to the front of the model's list of waiting words is the model's choice (log entry 12). -/
def Obligations.TickPortHeldOff : Prop :=
  ∀ (s : State) (pos : TickPos), s.tick = some pos →
    (∀ later, s.turns = .tick :: later → ∃ t, step s = .next t ∧ t.tickPort = s.tickPort) ∧
    ∀ wall, exec (.tick wall) s =
      .next { s with tickPort := BitVec.ofNat 32 (0x20000000 + wall.toNat) :: s.tickPort }

/-- R10, U16, by the model's turns of log entry 13: a tick forced into a running one and a second consumer of the queue have no meaning. -/
def Obligations.BrokenObligationsAreRefused : Prop :=
  ∀ (s : State) (later : List Turn),
    (s.turns = .forcedTick :: later → s.tickBusy = true → step s = .refused .overlappingTicks) ∧
    (s.turns = .foreignPop :: later → step s = .refused .secondConsumer)

/-- R37, R250: reset puts the engine's state at its reset values, whatever was in progress; the parameters, the tick port's words and the later turns are the outside world's, and a command not yet complete on the host port is dropped.
PAYLOAD at reset is the model's choice (log entry 2) and left out here; what becomes of the ports is the model's reading (log entry 7). -/
def Obligations.ResetAbandonsEverything : Prop :=
  ∀ (s : State) (later : List Turn), s.turns = .reset :: later →
    ∃ t, step s = .next t ∧
      t.slots = 0 ∧ t.lastValid = false ∧ t.lastIdx = 0 ∧ t.corr = 0 ∧ t.time = 0 ∧ t.sched = .awaitingSlot ∧
      t.payloadValid = false ∧ t.cancel = false ∧ t.obsEn = false ∧ t.tick = none ∧ t.mq = [] ∧ t.trace = [] ∧
      t.params = s.params ∧ t.tickPort = s.tickPort ∧ t.turns = later ∧
      (decode .host s.hostPort = .incomplete → t.hostPort = []) ∧
      (decode .host s.hostPort ≠ .incomplete → t.hostPort = s.hostPort)

/-! ### TimeSlotPlan -/

/-- R111: a string of hex digits replaces all sixteen slots, each set exactly when its digit occurs; a string with another character is answered BAD_DIGIT and changes nothing, which is the spec's own decision D8. -/
def Obligations.SetslotsReplacesThePlan : Prop :=
  ∀ (s : State) (chars : List Byte),
    ((∀ c ∈ chars, (hexDigit c).isSome = true) →
      ∃ plan : Half,
        exec (.setslots chars) s = .next { s with slots := plan, trace := s.trace ++ [.response .host 0] } ∧
        ∀ i < 16, (plan.getLsbD i = true ↔ ∃ c ∈ chars, hexDigit c = some i)) ∧
    ((∃ c ∈ chars, hexDigit c = none) →
      exec (.setslots chars) s = .next { s with trace := s.trace ++ [.response .host 0x02000000] })

/-- R112: INDEXOF answers floor(time / 64) mod 16 and changes nothing else; the index repeats with the time ring. -/
def Obligations.IndexofAnswersTheSlotIndex : Prop :=
  (∀ (s : State) (time : Half), exec (.indexof time) s =
    .next { s with trace := s.trace ++ [.response .host (BitVec.ofNat 32 (time.toNat / 64 % 16))] }) ∧
  (∀ time : Int, (indexOf time : Int) = time / 64 % 16) ∧
  ∀ time k : Int, indexOf (time + 65536 * k) = indexOf time

/-- R113: ISALLOWED answers the bit of slot mod 16 and changes nothing else. -/
def Obligations.IsallowedAnswersTheSlotBit : Prop :=
  ∀ (s : State) (slot : Half), exec (.isallowed slot) s =
    .next { s with trace := s.trace ++
      [.response .host (if s.slots.getLsbD (slot.toNat % 16) then 1 else 0)] }

/-- R114: ALLOWEDRUN answers the largest r in 0..16 such that the r slots from startSlot, wrapping, are all allowed; it is 16 exactly when every slot is. -/
def Obligations.AllowedrunAnswersTheLongestRun : Prop :=
  ∀ (s : State) (slot : Half), ∃ r ≤ 16,
    exec (.allowedrun slot) s = .next { s with trace := s.trace ++ [.response .host (BitVec.ofNat 32 r)] } ∧
    (∀ i < r, s.slots.getLsbD ((slot.toNat + i) % 16) = true) ∧
    (r < 16 → s.slots.getLsbD ((slot.toNat + r) % 16) = false) ∧
    (r = 16 ↔ s.slots = 0xFFFF)

/-- R115: ISNEXTALLOWED answers the bit of the slot after the one of the time, slot 0 after slot 15. -/
def Obligations.IsnextallowedAnswersTheNextSlot : Prop :=
  ∀ (s : State) (time : Half), exec (.isnextallowed time) s =
    .next { s with trace := s.trace ++
      [.response .host (if s.slots.getLsbD ((time.toNat / 64 + 1) % 16) then 1 else 0)] }

/-- R116: TIMETONEXT answers 64 j - time mod 64 for the least j in 1..16 whose slot is allowed, and 0 when no slot is, which the tick's comparison with 3 takes as false. The values for j > 1, for j = 16 and for no slot are the spec's own reading, its decision D10. -/
def Obligations.TimetonextAnswersTheLead : Prop :=
  ∀ (s : State) (time : Half),
    (∀ j, 1 ≤ j → j ≤ 16 → s.slots.getLsbD ((time.toNat / 64 + j) % 16) = true →
      (∀ k, 1 ≤ k → k < j → s.slots.getLsbD ((time.toNat / 64 + k) % 16) = false) →
      exec (.timetonext time) s =
        .next { s with trace := s.trace ++ [.response .host (BitVec.ofNat 32 (64 * j - time.toNat % 64))] }) ∧
    (s.slots = 0 →
      exec (.timetonext time) s = .next { s with trace := s.trace ++ [.response .host 0] } ∧
      leadShort (timeToNext s.slots (timeArg time)) = false)

/-- R117: HASCHANGED answers 1 and remembers the index when none was observed yet or the last one differs; else it answers 0; nothing else changes, and it does not look at the plan. -/
def Obligations.HaschangedObservesTheIndex : Prop :=
  ∀ (s : State) (time : Half), exec (.haschanged time) s =
    if s.lastValid = false ∨ s.lastIdx.toNat ≠ time.toNat / 64 % 16 then
      .next { s with lastValid := true, lastIdx := BitVec.ofNat 4 (time.toNat / 64 % 16),
                     trace := s.trace ++ [.response .host 1] }
    else .next { s with trace := s.trace ++ [.response .host 0] }

/-- R118 (a) to (f). -/
def Obligations.SlotPlanFacts : Prop :=
  (∀ i t : Nat, i < 16 → t < 65536 →
    (indexOf t = i ↔ ∃ pass < 64, ∃ k < 64, t = 1024 * pass + 64 * i + k)) ∧
  (∀ (plan : Half) (time : Int), nextAllowed plan time = slotAllowed plan (indexOf (time + 64))) ∧
  (∀ (plan : Half) (slot : Int), 0 < allowedRun plan slot ↔ slotAllowed plan slot = true) ∧
  (∀ (plan : Half) (time : Int), nextAllowed plan time = true →
    timeToNext plan time = some (64 - time % 64) ∧
    (leadShort (timeToNext plan time) = true ↔ time % 64 = 61 ∨ time % 64 = 62 ∨ time % 64 = 63)) ∧
  (∀ (plan : Half) (time : Int), timeToNext plan time = none ↔ plan = 0) ∧
  ∀ (s t u : State) (chars : List Byte), exec (.setslots chars) s = .next t →
    exec (.setslots chars) t = .next u → u.slots = t.slots

/-! ### Scheduler commands and the queue's commands -/

/-- R131: a TICK presented while no tick is in progress is accepted: TICK_BUSY set, WALL latched, nothing else changed; its micro-steps follow. -/
def Obligations.TickIsAcceptedWhenIdle : Prop :=
  ∀ (s : State) (wall : Half), s.tickBusy = false →
    ∃ t, exec (.tick wall) s = .next t ∧ t = { s with tick := some (.t0 wall) } ∧ t.tickBusy = true

/-- R150, R153, R154: GETTIME answers TIME, CANCEL and SETOBSERVER write their flag, and nothing else changes. -/
def Obligations.GettimeCancelSetobserverEffects : Prop :=
  ∀ (s : State),
    exec .gettime s = .next { s with trace := s.trace ++ [.response .host (BitVec.ofNat 32 s.time.toNat)] } ∧
    exec .cancel s = .next { s with cancel := true, trace := s.trace ++ [.response .host 0] } ∧
    ∀ enable, exec (.setobserver enable) s =
      .next { s with obsEn := enable, trace := s.trace ++ [.response .host 0] }

/-- R151, R63 (a): CORRECTTIME adds the signed delta to CORR mod 65536 and changes nothing else; two of them both take effect. -/
def Obligations.CorrecttimeAccumulates : Prop :=
  (∀ (s : State) (delta : Half), ∃ c : Half,
    exec (.correcttime delta) s = .next { s with corr := c, trace := s.trace ++ [.response .host 0] } ∧
    (c.toNat : Int) = ((s.corr.toNat : Int) + delta.toInt) % 65536) ∧
  ∀ (s t u : State) (d e : Half), exec (.correcttime d) s = .next t → exec (.correcttime e) t = .next u →
    (u.corr.toNat : Int) = ((s.corr.toNat : Int) + d.toInt + e.toInt) % 65536

/-- R202, R210, R228 (c): QPUSH answers BAD_MESSAGE to an empty list or a frame position above 7, else QUEUE_FULL when the queue with a held message is at its depth, else appends at the tail; a refusal changes nothing. -/
def Obligations.QpushAppendsOrRefuses : Prop :=
  ∀ (s : State) (msg : Message),
    ((msg = [] ∨ ∃ f payload, msg = f :: payload ∧ 7 < f.toNat) →
      exec (.qpush msg) s = .next { s with trace := s.trace ++ [.response .host 0x03000000] }) ∧
    (∀ f payload, msg = f :: payload → f.toNat ≤ 7 →
      exec (.qpush msg) s =
        if s.params.qdepth = some (s.mq.length + s.held) then
          .next { s with trace := s.trace ++ [.response .host 0x04000000] }
        else .next { s with mq := s.mq ++ [msg], trace := s.trace ++ [.response .host 0] })

/-- R205: QEMPTY answers 1 when the queue is empty, else 0, and changes nothing else. -/
def Obligations.QemptyAnswersWhetherEmpty : Prop :=
  ∀ (s : State), exec .qempty s =
    .next { s with trace := s.trace ++ [.response .host (if s.mq = [] then 1 else 0)] }

/-- R36, R86: every host command completes with exactly one response on the host port and writes only the state of its own row of R36's table. -/
def Obligations.HostCommandsWriteOnlyTheirRow : Prop :=
  ∀ (i : Instr) (s : State), i.port = .host → ∃ t w,
    exec i s = .next t ∧ t.trace = s.trace ++ [.response .host w] ∧
    t.params = s.params ∧ t.time = s.time ∧ t.sched = s.sched ∧ t.payload = s.payload ∧
    t.payloadValid = s.payloadValid ∧ t.tick = s.tick ∧ t.hostPort = s.hostPort ∧ t.tickPort = s.tickPort ∧
    t.turns = s.turns ∧ t.draws = s.draws ∧
    (i.op ≠ .setslots → t.slots = s.slots) ∧
    (i.op ≠ .haschanged → t.lastValid = s.lastValid ∧ t.lastIdx = s.lastIdx) ∧
    (i.op ≠ .correcttime → t.corr = s.corr) ∧ (i.op ≠ .cancel → t.cancel = s.cancel) ∧
    (i.op ≠ .setobserver → t.obsEn = s.obsEn) ∧ (i.op ≠ .qpush → t.mq = s.mq)

/-- R239: no host command's response depends on STATE, CORR, PAYLOAD, CANCEL, OBS_EN, or the content of the queue beyond its being empty or full. -/
def Obligations.ResponsesHideTheEngineState : Prop :=
  ∀ (i : Instr) (s r t u : State), i.port = .host →
    r.slots = s.slots → r.lastValid = s.lastValid → r.lastIdx = s.lastIdx → r.time = s.time →
    r.mq.isEmpty = s.mq.isEmpty → r.queueFull = s.queueFull → r.trace = s.trace →
    exec i s = .next t → exec i r = .next u → u.trace = t.trace

/-! ### The tick, micro-step by micro-step -/

/-- R132: a tick that finds CANCEL set at T0 writes nothing, emits nothing and requests nothing: two micro-steps and it is answered. -/
def Obligations.CancelledTickIsANoOp : Prop :=
  ∀ (s : State) (wall : Half) (later : List Turn),
    s.tick = some (.t0 wall) → s.cancel = true → s.turns = .tick :: .tick :: later →
    steps 2 s = .next { s with tick := none, turns := later, trace := s.trace ++ [.response .tick 0] }

/-- R133: T1 writes TIME with (WALL + CORR) mod 65536 and keeps that value as the tick's own time. -/
def Obligations.TimeBaseIsSampledAtTOne : Prop :=
  ∀ (s : State) (wall : Half) (later : List Turn), s.tick = some (.t1 wall) → s.turns = .tick :: later →
    ∃ time : Half, time.toNat = (wall.toNat + s.corr.toNat) % 65536 ∧
      step s = .next { s with time := time, tick := some (.t2 time), turns := later }

/-- R134, R135: T2 runs the change detector in every tick; T3 emits OBS_NOTIFY with the plan as it is then, exactly when the slot changed and an observer is registered. -/
def Obligations.SlotChangeIsReportedOnce : Prop :=
  ∀ (s : State) (time : Half) (later : List Turn), s.tick = some (.t2 time) → s.turns = .tick :: .tick :: later →
    steps 2 s =
      if s.lastValid = false ∨ s.lastIdx.toNat ≠ time.toNat / 64 % 16 then
        .next { s with lastValid := true, lastIdx := BitVec.ofNat 4 (time.toNat / 64 % 16),
                       tick := some (.t4 time), turns := later,
                       trace := s.trace ++
                         (if s.obsEn then [.event (BitVec.ofNat 32 (0x01000000 + s.slots.toNat))] else []) }
      else .next { s with tick := some (.t4 time), turns := later }

/-- R141: with no host command between them, the three conditions of AWAITING_SLOT hold exactly when the next slot is allowed, the queue is not empty, and the time is in the last three ticks of its slot. -/
def Obligations.AwaitingGoesInTheLastThreeTicks : Prop :=
  ∀ (s : State) (time : Half) (later : List Turn),
    s.tick = some (.awaitNext time) → s.turns = .tick :: .tick :: .tick :: later →
    steps 3 s =
      .next { s with
        turns := later
        tick := some (if s.slots.getLsbD ((time.toNat / 64 + 1) % 16) = true ∧ s.mq ≠ [] ∧ 61 ≤ time.toNat % 64
          then .awaitRun time else .finish) }

/-- R143, R146, R224: the outcome of an ENCODE; a failure leads to AWAITING_SLOT in both arms (log entry 10). -/
def Obligations.EncodeOutcome : Prop :=
  ∀ (s : State) (arm : Arm) (time : Half) (a : EncodeAnswer) (later : List Turn),
    s.tick = some (.encodeDone arm time a) → s.turns = .tick :: later → s.sched = arm.startState →
    step s = match a with
      | .ok p => .next { s with payload := p, payloadValid := true, sched := .dataEncoded,
                                tick := some .finish, turns := later }
      | .fail => .next { s with sched := .awaitingSlot, tick := some .finish, turns := later,
                                trace := s.trace ++ [.event (BitVec.ofNat 32
                                  (0x10000000 + 0x10000 * s.sched.code.toNat + time.toNat))] }

/-- R144, R225: the outcome of a SEND, the same whether it failed or not but for the log. -/
def Obligations.SendOutcomeFailsForward : Prop :=
  ∀ (s : State) (time : Half) (a : SendAnswer) (later : List Turn),
    s.tick = some (.sendDone time a) → s.turns = .tick :: later →
    step s = .next { s with payloadValid := false, sched := .slotStillAllowed, tick := some .finish, turns := later,
                            trace := s.trace ++ match a with
                              | .ok => []
                              | .fail => [.event (BitVec.ofNat 32 (0x11010000 + time.toNat))] }

/-- R175, R182: a message that does not fit goes back to the head of the queue unchanged and the loop is left; when it is the first the BUILD examined, the next micro-step emits LOG_NOFIT with the batches needed, at most 255, and maxBatches mod 65536. -/
def Obligations.UnfitMessageGoesBackToTheHead : Prop :=
  ∀ (s : State) (b : BuildLocals) (m : Message) (later : List Turn),
    s.tick = some (.buildTest b m) → s.turns = .tick :: .tick :: later →
    b.maxBatches < (neededBatches b.stream m : Int) →
    (b.consumed ≠ 0 → ∃ t, step s = .next t ∧
      t = { s with mq := m :: s.mq, tick := some (.buildResult b), turns := .tick :: later }) ∧
    (b.consumed = 0 → steps 2 s = .next { s with
      mq := m :: s.mq, tick := some (.buildResult b), turns := later,
      trace := s.trace ++ [.event (BitVec.ofNat 32
        (0x12000000 + 0x10000 * min (neededBatches b.stream m) 255 + (b.maxBatches % 65536).toNat))] })

/-- R52: a message a BUILD pops and pushes back is the head again, and a message pushed in between keeps its place behind it. -/
def Obligations.RequeueKeepsTheOrder : Prop :=
  ∀ (s : State) (b : BuildLocals) (m : Message) (rest : List Message) (pushed : Message),
    s.tick = some (.buildPop b) → s.mq = m :: rest → b.maxBatches < (neededBatches b.stream m : Int) →
    messageOk pushed = true → s.params.qdepth = none →
    ∃ t u v, takeTurn .tick s = .next t ∧ exec (.qpush pushed) t = .next u ∧ takeTurn .tick u = .next v ∧
      t.mq = rest ∧ u.mq = rest ++ [pushed] ∧ v.mq = m :: rest ++ [pushed]

/-! ### BUILD -/

/-- R171: maxBatches is the floor of the exact capacity, toward minus infinity; a run of at most 16 slots gives at most 224. That the arithmetic is exact is the spec's own choice (D14, C10; log entry 20). -/
def Obligations.CapacityIsTheExactFloor : Prop :=
  ∀ (p : Params) (n : Nat),
    1360 * maxBatches p n ≤ 3 * (6400 * (n : Int) - 480 - (p.delayMs.toNat : Int)) ∧
    3 * (6400 * (n : Int) - 480 - (p.delayMs.toNat : Int)) < 1360 * (maxBatches p n + 1) ∧
    (n ≤ 16 → maxBatches p n ≤ 224) ∧ (n = 0 → maxBatches p n ≤ -2)

/-- R180: a message takes exactly max(1, ceil(n / 16)) batches of an aligned stream. -/
def Obligations.MessageOccupiesWholeBatches : Prop :=
  ∀ (p : Params) (stream : List Word) (m : Message), messageOk m = true → StreamShape p stream →
    (appendMessage p stream m).length = stream.length + 17 * max 1 ((m.length - 1 + 2 * framePos m + 15) / 16)

/-- R179 (a) to (c): striping a message into a stream of the right shape gives one of the right shape, with the old stream in front. -/
def Obligations.StripingKeepsTheShape : Prop :=
  ∀ (p : Params) (stream : List Word) (m : Message), messageOk m = true → StreamShape p stream →
    StreamShape p (appendMessage p stream m) ∧ stream <+: appendMessage p stream m

/-- R179 (e): the payload positions of a message's batches hold 2 framePos IDLE words, the payload codewords in order and unchanged, then IDLE words. -/
def Obligations.PayloadStandsAtItsFrame : Prop :=
  ∀ (p : Params) (stream : List Word) (f : Word) (payload : List Word), f.toNat ≤ 7 → StreamShape p stream →
    ∃ pad, payloadPositions ((appendMessage p stream (f :: payload)).drop stream.length) (batchesOf (f :: payload)) =
      List.replicate (2 * f.toNat) p.wIdle ++ payload ++ List.replicate pad p.wIdle

/-- R180 (b): of k messages with n = 16 each, a BUILD consumes all exactly when k + 1 is at most maxBatches, and otherwise leaves those past number maxBatches - 1. -/
def Obligations.FullBatchesAreConsumedUpToTheMargin : Prop :=
  ∀ (p : Params) (arm : Arm) (time : Half) (run : Nat) (msgs : List Message),
    (∀ m ∈ msgs, messageOk m = true ∧ positionsOf m = 16) →
    (buildLoop p (startBuild p arm time run) msgs).2.1 = msgs.drop (maxBatches p run - 1).toNat ∧
    (buildLoop p (startBuild p arm time run) msgs).1.consumed = min msgs.length (maxBatches p run - 1).toNat

/-- R178 (a) to (c), (g), R233, R259: with no capacity, or with a head message of more than 3568 payload positions, a BUILD consumes nothing, leaves the queue as it was and has a diagnostic; with an empty queue it consumes nothing and has none. -/
def Obligations.UnsendableHeadStaysAtTheHead : Prop :=
  ∀ (p : Params) (arm : Arm) (time : Half) (run : Nat) (m : Message) (rest : List Message),
    (maxBatches p run ≤ 0 ∨ run ≤ 16 ∧ 3568 < positionsOf m →
      buildLoop p (startBuild p arm time run) (m :: rest) =
        (startBuild p arm time run, m :: rest, some ((positionsOf m + 15) / 16 + 1))) ∧
    buildLoop p (startBuild p arm time run) [] = (startBuild p arm time run, [], none)

/-- R175 to R178: BUILD's micro-steps, run with nothing between them, are BUILD as a function of the queue, the capacity and the parameters (C9). -/
def Obligations.UninterruptedBuildIsAFunction : Prop :=
  ∀ (e : EncodeAnswer) (a : SendAnswer) (s : State) (b : BuildLocals), s.tick = some (.buildPop b) →
    ∃ n, tickAlone e a n s = .next ((buildWhole b s).2.goto (.buildResult (buildWhole b s).1))

/-! ### The whole tick and the whole machine -/

/-- R130, R132 to R147: a tick that no host command interrupts ends, and is the tick as one function. -/
def Obligations.UninterruptedTickIsTheWholeTick : Prop :=
  ∀ (e : EncodeAnswer) (a : SendAnswer) (s : State) (wall : Half),
    s.tick = some (.t0 wall) → ∃ n, tickAlone e a n s = .next (wholeTick e a wall s)

/-- R148 as STATE and Transmitter requests, for a tick no host command interrupts: from the state at its T0 it ends with the row's STATE and the row's requests (for a failed encode as log entry 10 says).
The rows with a BUILD speak of BUILD's result, with the run of R142 or R145. -/
def Obligations.TransitionTableOfAnUninterruptedTick : Prop :=
  ∀ (e : EncodeAnswer) (a : SendAnswer) (s : State) (wall : Half), s.tick = some (.t0 wall) →
    ∃ n t dest calls, tickAlone e a n s = .next t ∧ t.tick = none ∧ t.sched = dest ∧
      requestsIn t.trace = requestsIn s.trace ++ calls ∧
      (s.cancel = true → dest = s.sched ∧ calls = []) ∧
      (s.cancel = false → ∀ time : Half, time.toNat = (wall.toNat + s.corr.toNat) % 65536 →
        let nextRun := allowedRun s.slots (time.toNat / 64 + 1 : Nat)
        let thisRun := allowedRun s.slots (time.toNat / 64 : Nat)
        let built (arm : Arm) (run : Nat) := (buildLoop s.params (startBuild s.params arm time run) s.mq).1
        (s.sched = .awaitingSlot →
          if 0 < nextRun ∧ s.mq ≠ [] ∧ 61 ≤ time.toNat % 64 ∧ (built .awaiting nextRun).consumed ≠ 0 then
            calls = [.encode (built .awaiting nextRun).stream] ∧
            dest = match e with
              | .ok _ => .dataEncoded
              | .fail => .awaitingSlot
          else dest = .awaitingSlot ∧ calls = []) ∧
        (s.sched = .dataEncoded →
          if 0 < thisRun then dest = .slotStillAllowed ∧ calls = [.send s.payload]
          else dest = .dataEncoded ∧ calls = []) ∧
        (s.sched = .slotStillAllowed →
          if thisRun = 0 then dest = .awaitingSlot ∧ calls = []
          else if s.mq = [] then dest = .slotStillAllowed ∧ calls = []
          else if (built .still thisRun).consumed = 0 then dest = .awaitingSlot ∧ calls = []
          else calls = [.encode (built .still thisRun).stream] ∧
            dest = match e with
              | .ok _ => .dataEncoded
              | .fail => .awaitingSlot))

/-- R147, R149 (a), R223: whatever the Transmitter answers, a tick in progress that runs alone ends within a bound, answered OK 0 as its last output, with at most one Transmitter request from its start on, and no step of it stops. The bound counts the model's micro-steps (log entry 8). -/
def Obligations.EveryTickEndsAnswered : Prop :=
  ∀ (e : EncodeAnswer) (a : SendAnswer) (s : State) (pos : TickPos), s.tick = some pos →
    ∃ t out, tickAlone e a (3 * s.mq.length + 20) s = .next t ∧ t.tick = none ∧
      t.trace = s.trace ++ out ++ [.response .tick 0] ∧ (requestsIn out).length ≤ 1

/-- R230: the events of a tick that no host command interrupts: at most one OBS_NOTIFY, first, with the plan, then at most one log event. -/
def Obligations.EventsOfATickComeInOrder : Prop :=
  ∀ (e : EncodeAnswer) (a : SendAnswer) (s : State) (wall : Half), s.tick = some (.t0 wall) →
    ∃ n t notes logs, tickAlone e a n s = .next t ∧ t.tick = none ∧
      eventsIn t.trace = eventsIn s.trace ++ notes ++ logs ∧ notes.length ≤ 1 ∧ logs.length ≤ 1 ∧
      (∀ w ∈ notes, w = BitVec.ofNat 32 (0x01000000 + s.slots.toNat)) ∧
      ∀ w ∈ logs, w.toNat / 16777216 = 0x10 ∨ w.toNat / 16777216 = 0x11 ∨ w.toNat / 16777216 = 0x12

/-- R26, R31, R37, R201: the reset state meets the invariant. -/
def Obligations.ResetMeetsTheInvariant : Prop := State.reset.Inv

/-- R26, R31, R32, R136, R179, R180 (a), R201: every step of every agent keeps the invariant, the reset input included. -/
def Obligations.EveryStepKeepsTheInvariant : Prop :=
  ∀ s t : State, s.Inv → step s = .next t → t.Inv

/-- R179 (a) to (c), R32: every stream handed to the Transmitter has the shape of R179 and at most 3826 words. -/
def Obligations.EveryEncodedStreamIsWellShaped : Prop :=
  ∀ (s t : State) (stream : List Word), s.Inv → step s = .next t →
    t.trace = s.trace ++ [.request (.encode stream)] →
    StreamShape s.params stream ∧ 35 ≤ stream.length ∧ stream.length ≤ 3826

/-- R148 over every interleaving: a step other than reset changes STATE only along a row of the table (for a failed encode as log entry 10 says). -/
def Obligations.StateMovesOnlyAlongTheTable : Prop :=
  ∀ s t : State, s.Inv → step s = .next t → s.turns.head? ≠ some .reset → t.sched ≠ s.sched →
    (∃ arm time p, s.tick = some (.encodeDone arm time (.ok p)) ∧ s.sched = arm.startState ∧ t.sched = .dataEncoded) ∨
    (∃ time a, s.tick = some (.sendDone time a) ∧ s.sched = .dataEncoded ∧ t.sched = .slotStillAllowed) ∨
    (s.sched = .slotStillAllowed ∧ t.sched = .awaitingSlot ∧
      ((∃ time, s.tick = some (.stillGuard time) ∧ s.slots.getLsbD (time.toNat / 64 % 16) = false) ∨
       (∃ b, s.tick = some (.buildResult b) ∧ b.consumed = 0) ∨
       ∃ time, s.tick = some (.encodeDone .still time .fail)))

/-- R149 (b): a tick comes to its SEND only through its own isAllowed query of the current slot, answered 1; and a SEND request goes out only there, with the stored payload. -/
def Obligations.SendStartsOnlyInAnAllowedSlot : Prop :=
  ∀ s t : State, step s = .next t →
    (∀ time, t.tick = some (.sendCall time) → s.tick ≠ t.tick →
      s.tick = some (.sendGuard time) ∧ s.slots.getLsbD (time.toNat / 64 % 16) = true) ∧
    (∀ p, t.trace = s.trace ++ [.request (.send p)] → ∃ time, s.tick = some (.sendCall time) ∧ p = s.payload)

/-- R149 (c): it is kept by every step that what the engine holds for sending is the payload of the last successful ENCODE, not yet sent; it holds at reset; and every SEND request carries that payload. -/
def Obligations.EverySendCarriesTheLastEncodedPayloadOnce : Prop :=
  lastUnsent State.reset.trace = State.reset.unsent ∧
  ∀ s t : State, s.Inv → lastUnsent s.trace = s.unsent → step s = .next t →
    lastUnsent t.trace = t.unsent ∧
    ∀ p, t.trace = s.trace ++ [.request (.send p)] → lastUnsent s.trace = some p ∧ lastUnsent t.trace = none

/-- R153: once cancelled and with no tick past its check, no step but reset ever sends a Transmitter request or an event again: only responses go out, TIME, STATE and the payload stay, and this goes on. -/
def Obligations.NothingIsSentAfterCancel : Prop :=
  ∀ s t : State, s.Silenced → step s = .next t → s.turns.head? ≠ some .reset →
    t.Silenced ∧ t.time = s.time ∧ t.sched = s.sched ∧ t.payload = s.payload ∧ t.payloadValid = s.payloadValid ∧
    ∃ out, t.trace = s.trace ++ out ∧ ∀ o ∈ out, ∃ p rw, o = .response p rw

/-- R21 to R31, R34, R52 over every interleaving: which step writes which register, flag and queue, reset apart. -/
def Obligations.RegistersAreWrittenOnlyByTheirWriters : Prop :=
  ∀ s t : State, step s = .next t → s.turns.head? ≠ some .reset →
    t.params = s.params ∧
    (t.time ≠ s.time → ∃ wall, s.tick = some (.t1 wall) ∧ t.tick = some (.t2 t.time)) ∧
    (t.slots ≠ s.slots → ∃ chars rest, decode .host s.hostPort = .command (.setslots chars) rest) ∧
    (t.lastValid ≠ s.lastValid ∨ t.lastIdx ≠ s.lastIdx →
      (∃ time, s.tick = some (.t2 time)) ∨
      ∃ time rest, decode .host s.hostPort = .command (.haschanged time) rest) ∧
    (t.corr ≠ s.corr → ∃ delta rest, decode .host s.hostPort = .command (.correcttime delta) rest) ∧
    (t.obsEn ≠ s.obsEn → ∃ enable rest, decode .host s.hostPort = .command (.setobserver enable) rest) ∧
    (s.cancel = true → t.cancel = true) ∧ (s.lastValid = true → t.lastValid = true) ∧
    (t.cancel ≠ s.cancel → ∃ rest, decode .host s.hostPort = .command .cancel rest) ∧
    (t.payload ≠ s.payload → ∃ arm time, s.tick = some (.encodeDone arm time (.ok t.payload))) ∧
    (s.payloadValid = false → t.payloadValid = true →
      ∃ arm time, s.tick = some (.encodeDone arm time (.ok t.payload))) ∧
    (s.payloadValid = true → t.payloadValid = false → ∃ time a, s.tick = some (.sendDone time a)) ∧
    (t.sched ≠ s.sched →
      (∃ arm time a, s.tick = some (.encodeDone arm time a)) ∨ (∃ time a, s.tick = some (.sendDone time a)) ∨
      (∃ time, s.tick = some (.stillGuard time)) ∨ ∃ b, s.tick = some (.buildResult b)) ∧
    (t.tickBusy ≠ s.tickBusy →
      (∃ wall rest, decode .tick s.tickPort = .command (.tick wall) rest) ∨ s.tick = some .finish) ∧
    (t.mq ≠ s.mq →
      (∃ msg rest, decode .host s.hostPort = .command (.qpush msg) rest ∧ t.mq = s.mq ++ [msg]) ∨
      (∃ b m, s.tick = some (.buildPop b) ∧ t.tick = some (.buildTest b m) ∧ s.mq = m :: t.mq) ∨
      ∃ b m, s.tick = some (.buildTest b m) ∧ t.mq = m :: s.mq)
end

