-- ==== Sys2Proof/Laws/State.lean ====
section
/-! SUPPORT. One lemma per field per update of the state, so that no proof unfolds a record update. -/

namespace Sys2Proof.Machine

variable (s : State)

@[simp] theorem State.respond_eq_out (p : Port) (st : Status) (r : Half) : s.respond p st r = s.out (.response p (responseWord st r)) := rfl
@[simp] theorem State.refuse_eq_out (p : Port) (st : Status) : s.refuse p st = s.out (.response p (responseWord st 0)) := rfl
@[simp] theorem State.emit_eq_out (e : Event) : s.emit e = s.out (.event e.word) := rfl
@[simp] theorem State.acceptTick_eq_goto (wall : Half) : s.acceptTick wall = s.goto (.t0 wall) := rfl

/-! ### out -/

@[simp] theorem State.out_params (o : Output) : (s.out o).params = s.params := rfl
@[simp] theorem State.out_slots (o : Output) : (s.out o).slots = s.slots := rfl
@[simp] theorem State.out_lastValid (o : Output) : (s.out o).lastValid = s.lastValid := rfl
@[simp] theorem State.out_lastIdx (o : Output) : (s.out o).lastIdx = s.lastIdx := rfl
@[simp] theorem State.out_corr (o : Output) : (s.out o).corr = s.corr := rfl
@[simp] theorem State.out_time (o : Output) : (s.out o).time = s.time := rfl
@[simp] theorem State.out_sched (o : Output) : (s.out o).sched = s.sched := rfl
@[simp] theorem State.out_payload (o : Output) : (s.out o).payload = s.payload := rfl
@[simp] theorem State.out_payloadValid (o : Output) : (s.out o).payloadValid = s.payloadValid := rfl
@[simp] theorem State.out_cancel (o : Output) : (s.out o).cancel = s.cancel := rfl
@[simp] theorem State.out_obsEn (o : Output) : (s.out o).obsEn = s.obsEn := rfl
@[simp] theorem State.out_tick (o : Output) : (s.out o).tick = s.tick := rfl
@[simp] theorem State.out_mq (o : Output) : (s.out o).mq = s.mq := rfl
@[simp] theorem State.out_trace (o : Output) : (s.out o).trace = s.trace ++ [o] := rfl
@[simp] theorem State.out_hostPort (o : Output) : (s.out o).hostPort = s.hostPort := rfl
@[simp] theorem State.out_tickPort (o : Output) : (s.out o).tickPort = s.tickPort := rfl
@[simp] theorem State.out_turns (o : Output) : (s.out o).turns = s.turns := rfl
@[simp] theorem State.out_draws (o : Output) : (s.out o).draws = s.draws := rfl

/-! ### goto -/

@[simp] theorem State.goto_params (pos : TickPos) : (s.goto pos).params = s.params := rfl
@[simp] theorem State.goto_slots (pos : TickPos) : (s.goto pos).slots = s.slots := rfl
@[simp] theorem State.goto_lastValid (pos : TickPos) : (s.goto pos).lastValid = s.lastValid := rfl
@[simp] theorem State.goto_lastIdx (pos : TickPos) : (s.goto pos).lastIdx = s.lastIdx := rfl
@[simp] theorem State.goto_corr (pos : TickPos) : (s.goto pos).corr = s.corr := rfl
@[simp] theorem State.goto_time (pos : TickPos) : (s.goto pos).time = s.time := rfl
@[simp] theorem State.goto_sched (pos : TickPos) : (s.goto pos).sched = s.sched := rfl
@[simp] theorem State.goto_payload (pos : TickPos) : (s.goto pos).payload = s.payload := rfl
@[simp] theorem State.goto_payloadValid (pos : TickPos) : (s.goto pos).payloadValid = s.payloadValid := rfl
@[simp] theorem State.goto_cancel (pos : TickPos) : (s.goto pos).cancel = s.cancel := rfl
@[simp] theorem State.goto_obsEn (pos : TickPos) : (s.goto pos).obsEn = s.obsEn := rfl
@[simp] theorem State.goto_tick (pos : TickPos) : (s.goto pos).tick = some pos := rfl
@[simp] theorem State.goto_mq (pos : TickPos) : (s.goto pos).mq = s.mq := rfl
@[simp] theorem State.goto_trace (pos : TickPos) : (s.goto pos).trace = s.trace := rfl
@[simp] theorem State.goto_hostPort (pos : TickPos) : (s.goto pos).hostPort = s.hostPort := rfl
@[simp] theorem State.goto_tickPort (pos : TickPos) : (s.goto pos).tickPort = s.tickPort := rfl
@[simp] theorem State.goto_turns (pos : TickPos) : (s.goto pos).turns = s.turns := rfl
@[simp] theorem State.goto_draws (pos : TickPos) : (s.goto pos).draws = s.draws := rfl

/-! ### setPlan -/

@[simp] theorem State.setPlan_params (plan : Half) : (s.setPlan plan).params = s.params := rfl
@[simp] theorem State.setPlan_slots (plan : Half) : (s.setPlan plan).slots = plan := rfl
@[simp] theorem State.setPlan_lastValid (plan : Half) : (s.setPlan plan).lastValid = s.lastValid := rfl
@[simp] theorem State.setPlan_lastIdx (plan : Half) : (s.setPlan plan).lastIdx = s.lastIdx := rfl
@[simp] theorem State.setPlan_corr (plan : Half) : (s.setPlan plan).corr = s.corr := rfl
@[simp] theorem State.setPlan_time (plan : Half) : (s.setPlan plan).time = s.time := rfl
@[simp] theorem State.setPlan_sched (plan : Half) : (s.setPlan plan).sched = s.sched := rfl
@[simp] theorem State.setPlan_payload (plan : Half) : (s.setPlan plan).payload = s.payload := rfl
@[simp] theorem State.setPlan_payloadValid (plan : Half) : (s.setPlan plan).payloadValid = s.payloadValid := rfl
@[simp] theorem State.setPlan_cancel (plan : Half) : (s.setPlan plan).cancel = s.cancel := rfl
@[simp] theorem State.setPlan_obsEn (plan : Half) : (s.setPlan plan).obsEn = s.obsEn := rfl
@[simp] theorem State.setPlan_tick (plan : Half) : (s.setPlan plan).tick = s.tick := rfl
@[simp] theorem State.setPlan_mq (plan : Half) : (s.setPlan plan).mq = s.mq := rfl
@[simp] theorem State.setPlan_trace (plan : Half) : (s.setPlan plan).trace = s.trace := rfl
@[simp] theorem State.setPlan_hostPort (plan : Half) : (s.setPlan plan).hostPort = s.hostPort := rfl
@[simp] theorem State.setPlan_tickPort (plan : Half) : (s.setPlan plan).tickPort = s.tickPort := rfl
@[simp] theorem State.setPlan_turns (plan : Half) : (s.setPlan plan).turns = s.turns := rfl
@[simp] theorem State.setPlan_draws (plan : Half) : (s.setPlan plan).draws = s.draws := rfl

/-! ### push -/

@[simp] theorem State.push_params (m : Message) : (s.push m).params = s.params := rfl
@[simp] theorem State.push_slots (m : Message) : (s.push m).slots = s.slots := rfl
@[simp] theorem State.push_lastValid (m : Message) : (s.push m).lastValid = s.lastValid := rfl
@[simp] theorem State.push_lastIdx (m : Message) : (s.push m).lastIdx = s.lastIdx := rfl
@[simp] theorem State.push_corr (m : Message) : (s.push m).corr = s.corr := rfl
@[simp] theorem State.push_time (m : Message) : (s.push m).time = s.time := rfl
@[simp] theorem State.push_sched (m : Message) : (s.push m).sched = s.sched := rfl
@[simp] theorem State.push_payload (m : Message) : (s.push m).payload = s.payload := rfl
@[simp] theorem State.push_payloadValid (m : Message) : (s.push m).payloadValid = s.payloadValid := rfl
@[simp] theorem State.push_cancel (m : Message) : (s.push m).cancel = s.cancel := rfl
@[simp] theorem State.push_obsEn (m : Message) : (s.push m).obsEn = s.obsEn := rfl
@[simp] theorem State.push_tick (m : Message) : (s.push m).tick = s.tick := rfl
@[simp] theorem State.push_mq (m : Message) : (s.push m).mq = s.mq ++ [m] := rfl
@[simp] theorem State.push_trace (m : Message) : (s.push m).trace = s.trace := rfl
@[simp] theorem State.push_hostPort (m : Message) : (s.push m).hostPort = s.hostPort := rfl
@[simp] theorem State.push_tickPort (m : Message) : (s.push m).tickPort = s.tickPort := rfl
@[simp] theorem State.push_turns (m : Message) : (s.push m).turns = s.turns := rfl
@[simp] theorem State.push_draws (m : Message) : (s.push m).draws = s.draws := rfl

/-! ### pushFront -/

@[simp] theorem State.pushFront_params (m : Message) : (s.pushFront m).params = s.params := rfl
@[simp] theorem State.pushFront_slots (m : Message) : (s.pushFront m).slots = s.slots := rfl
@[simp] theorem State.pushFront_lastValid (m : Message) : (s.pushFront m).lastValid = s.lastValid := rfl
@[simp] theorem State.pushFront_lastIdx (m : Message) : (s.pushFront m).lastIdx = s.lastIdx := rfl
@[simp] theorem State.pushFront_corr (m : Message) : (s.pushFront m).corr = s.corr := rfl
@[simp] theorem State.pushFront_time (m : Message) : (s.pushFront m).time = s.time := rfl
@[simp] theorem State.pushFront_sched (m : Message) : (s.pushFront m).sched = s.sched := rfl
@[simp] theorem State.pushFront_payload (m : Message) : (s.pushFront m).payload = s.payload := rfl
@[simp] theorem State.pushFront_payloadValid (m : Message) : (s.pushFront m).payloadValid = s.payloadValid := rfl
@[simp] theorem State.pushFront_cancel (m : Message) : (s.pushFront m).cancel = s.cancel := rfl
@[simp] theorem State.pushFront_obsEn (m : Message) : (s.pushFront m).obsEn = s.obsEn := rfl
@[simp] theorem State.pushFront_tick (m : Message) : (s.pushFront m).tick = s.tick := rfl
@[simp] theorem State.pushFront_mq (m : Message) : (s.pushFront m).mq = m :: s.mq := rfl
@[simp] theorem State.pushFront_trace (m : Message) : (s.pushFront m).trace = s.trace := rfl
@[simp] theorem State.pushFront_hostPort (m : Message) : (s.pushFront m).hostPort = s.hostPort := rfl
@[simp] theorem State.pushFront_tickPort (m : Message) : (s.pushFront m).tickPort = s.tickPort := rfl
@[simp] theorem State.pushFront_turns (m : Message) : (s.pushFront m).turns = s.turns := rfl
@[simp] theorem State.pushFront_draws (m : Message) : (s.pushFront m).draws = s.draws := rfl

/-! ### setSched -/

@[simp] theorem State.setSched_params (st : SchedState) : (s.setSched st).params = s.params := rfl
@[simp] theorem State.setSched_slots (st : SchedState) : (s.setSched st).slots = s.slots := rfl
@[simp] theorem State.setSched_lastValid (st : SchedState) : (s.setSched st).lastValid = s.lastValid := rfl
@[simp] theorem State.setSched_lastIdx (st : SchedState) : (s.setSched st).lastIdx = s.lastIdx := rfl
@[simp] theorem State.setSched_corr (st : SchedState) : (s.setSched st).corr = s.corr := rfl
@[simp] theorem State.setSched_time (st : SchedState) : (s.setSched st).time = s.time := rfl
@[simp] theorem State.setSched_sched (st : SchedState) : (s.setSched st).sched = st := rfl
@[simp] theorem State.setSched_payload (st : SchedState) : (s.setSched st).payload = s.payload := rfl
@[simp] theorem State.setSched_payloadValid (st : SchedState) : (s.setSched st).payloadValid = s.payloadValid := rfl
@[simp] theorem State.setSched_cancel (st : SchedState) : (s.setSched st).cancel = s.cancel := rfl
@[simp] theorem State.setSched_obsEn (st : SchedState) : (s.setSched st).obsEn = s.obsEn := rfl
@[simp] theorem State.setSched_tick (st : SchedState) : (s.setSched st).tick = s.tick := rfl
@[simp] theorem State.setSched_mq (st : SchedState) : (s.setSched st).mq = s.mq := rfl
@[simp] theorem State.setSched_trace (st : SchedState) : (s.setSched st).trace = s.trace := rfl
@[simp] theorem State.setSched_hostPort (st : SchedState) : (s.setSched st).hostPort = s.hostPort := rfl
@[simp] theorem State.setSched_tickPort (st : SchedState) : (s.setSched st).tickPort = s.tickPort := rfl
@[simp] theorem State.setSched_turns (st : SchedState) : (s.setSched st).turns = s.turns := rfl
@[simp] theorem State.setSched_draws (st : SchedState) : (s.setSched st).draws = s.draws := rfl

/-! ### storePayload -/

@[simp] theorem State.storePayload_params (p : Payload) : (s.storePayload p).params = s.params := rfl
@[simp] theorem State.storePayload_slots (p : Payload) : (s.storePayload p).slots = s.slots := rfl
@[simp] theorem State.storePayload_lastValid (p : Payload) : (s.storePayload p).lastValid = s.lastValid := rfl
@[simp] theorem State.storePayload_lastIdx (p : Payload) : (s.storePayload p).lastIdx = s.lastIdx := rfl
@[simp] theorem State.storePayload_corr (p : Payload) : (s.storePayload p).corr = s.corr := rfl
@[simp] theorem State.storePayload_time (p : Payload) : (s.storePayload p).time = s.time := rfl
@[simp] theorem State.storePayload_sched (p : Payload) : (s.storePayload p).sched = s.sched := rfl
@[simp] theorem State.storePayload_payload (p : Payload) : (s.storePayload p).payload = p := rfl
@[simp] theorem State.storePayload_payloadValid (p : Payload) : (s.storePayload p).payloadValid = true := rfl
@[simp] theorem State.storePayload_cancel (p : Payload) : (s.storePayload p).cancel = s.cancel := rfl
@[simp] theorem State.storePayload_obsEn (p : Payload) : (s.storePayload p).obsEn = s.obsEn := rfl
@[simp] theorem State.storePayload_tick (p : Payload) : (s.storePayload p).tick = s.tick := rfl
@[simp] theorem State.storePayload_mq (p : Payload) : (s.storePayload p).mq = s.mq := rfl
@[simp] theorem State.storePayload_trace (p : Payload) : (s.storePayload p).trace = s.trace := rfl
@[simp] theorem State.storePayload_hostPort (p : Payload) : (s.storePayload p).hostPort = s.hostPort := rfl
@[simp] theorem State.storePayload_tickPort (p : Payload) : (s.storePayload p).tickPort = s.tickPort := rfl
@[simp] theorem State.storePayload_turns (p : Payload) : (s.storePayload p).turns = s.turns := rfl
@[simp] theorem State.storePayload_draws (p : Payload) : (s.storePayload p).draws = s.draws := rfl

/-! ### dropPayload -/

@[simp] theorem State.dropPayload_params : (s.dropPayload).params = s.params := rfl
@[simp] theorem State.dropPayload_slots : (s.dropPayload).slots = s.slots := rfl
@[simp] theorem State.dropPayload_lastValid : (s.dropPayload).lastValid = s.lastValid := rfl
@[simp] theorem State.dropPayload_lastIdx : (s.dropPayload).lastIdx = s.lastIdx := rfl
@[simp] theorem State.dropPayload_corr : (s.dropPayload).corr = s.corr := rfl
@[simp] theorem State.dropPayload_time : (s.dropPayload).time = s.time := rfl
@[simp] theorem State.dropPayload_sched : (s.dropPayload).sched = s.sched := rfl
@[simp] theorem State.dropPayload_payload : (s.dropPayload).payload = s.payload := rfl
@[simp] theorem State.dropPayload_payloadValid : (s.dropPayload).payloadValid = false := rfl
@[simp] theorem State.dropPayload_cancel : (s.dropPayload).cancel = s.cancel := rfl
@[simp] theorem State.dropPayload_obsEn : (s.dropPayload).obsEn = s.obsEn := rfl
@[simp] theorem State.dropPayload_tick : (s.dropPayload).tick = s.tick := rfl
@[simp] theorem State.dropPayload_mq : (s.dropPayload).mq = s.mq := rfl
@[simp] theorem State.dropPayload_trace : (s.dropPayload).trace = s.trace := rfl
@[simp] theorem State.dropPayload_hostPort : (s.dropPayload).hostPort = s.hostPort := rfl
@[simp] theorem State.dropPayload_tickPort : (s.dropPayload).tickPort = s.tickPort := rfl
@[simp] theorem State.dropPayload_turns : (s.dropPayload).turns = s.turns := rfl
@[simp] theorem State.dropPayload_draws : (s.dropPayload).draws = s.draws := rfl

/-! ### setCancel -/

@[simp] theorem State.setCancel_params : (s.setCancel).params = s.params := rfl
@[simp] theorem State.setCancel_slots : (s.setCancel).slots = s.slots := rfl
@[simp] theorem State.setCancel_lastValid : (s.setCancel).lastValid = s.lastValid := rfl
@[simp] theorem State.setCancel_lastIdx : (s.setCancel).lastIdx = s.lastIdx := rfl
@[simp] theorem State.setCancel_corr : (s.setCancel).corr = s.corr := rfl
@[simp] theorem State.setCancel_time : (s.setCancel).time = s.time := rfl
@[simp] theorem State.setCancel_sched : (s.setCancel).sched = s.sched := rfl
@[simp] theorem State.setCancel_payload : (s.setCancel).payload = s.payload := rfl
@[simp] theorem State.setCancel_payloadValid : (s.setCancel).payloadValid = s.payloadValid := rfl
@[simp] theorem State.setCancel_cancel : (s.setCancel).cancel = true := rfl
@[simp] theorem State.setCancel_obsEn : (s.setCancel).obsEn = s.obsEn := rfl
@[simp] theorem State.setCancel_tick : (s.setCancel).tick = s.tick := rfl
@[simp] theorem State.setCancel_mq : (s.setCancel).mq = s.mq := rfl
@[simp] theorem State.setCancel_trace : (s.setCancel).trace = s.trace := rfl
@[simp] theorem State.setCancel_hostPort : (s.setCancel).hostPort = s.hostPort := rfl
@[simp] theorem State.setCancel_tickPort : (s.setCancel).tickPort = s.tickPort := rfl
@[simp] theorem State.setCancel_turns : (s.setCancel).turns = s.turns := rfl
@[simp] theorem State.setCancel_draws : (s.setCancel).draws = s.draws := rfl

/-! ### setObserver -/

@[simp] theorem State.setObserver_params (enable : Bool) : (s.setObserver enable).params = s.params := rfl
@[simp] theorem State.setObserver_slots (enable : Bool) : (s.setObserver enable).slots = s.slots := rfl
@[simp] theorem State.setObserver_lastValid (enable : Bool) : (s.setObserver enable).lastValid = s.lastValid := rfl
@[simp] theorem State.setObserver_lastIdx (enable : Bool) : (s.setObserver enable).lastIdx = s.lastIdx := rfl
@[simp] theorem State.setObserver_corr (enable : Bool) : (s.setObserver enable).corr = s.corr := rfl
@[simp] theorem State.setObserver_time (enable : Bool) : (s.setObserver enable).time = s.time := rfl
@[simp] theorem State.setObserver_sched (enable : Bool) : (s.setObserver enable).sched = s.sched := rfl
@[simp] theorem State.setObserver_payload (enable : Bool) : (s.setObserver enable).payload = s.payload := rfl
@[simp] theorem State.setObserver_payloadValid (enable : Bool) : (s.setObserver enable).payloadValid = s.payloadValid := rfl
@[simp] theorem State.setObserver_cancel (enable : Bool) : (s.setObserver enable).cancel = s.cancel := rfl
@[simp] theorem State.setObserver_obsEn (enable : Bool) : (s.setObserver enable).obsEn = enable := rfl
@[simp] theorem State.setObserver_tick (enable : Bool) : (s.setObserver enable).tick = s.tick := rfl
@[simp] theorem State.setObserver_mq (enable : Bool) : (s.setObserver enable).mq = s.mq := rfl
@[simp] theorem State.setObserver_trace (enable : Bool) : (s.setObserver enable).trace = s.trace := rfl
@[simp] theorem State.setObserver_hostPort (enable : Bool) : (s.setObserver enable).hostPort = s.hostPort := rfl
@[simp] theorem State.setObserver_tickPort (enable : Bool) : (s.setObserver enable).tickPort = s.tickPort := rfl
@[simp] theorem State.setObserver_turns (enable : Bool) : (s.setObserver enable).turns = s.turns := rfl
@[simp] theorem State.setObserver_draws (enable : Bool) : (s.setObserver enable).draws = s.draws := rfl

/-! ### endTick -/

@[simp] theorem State.endTick_params : (s.endTick).params = s.params := rfl
@[simp] theorem State.endTick_slots : (s.endTick).slots = s.slots := rfl
@[simp] theorem State.endTick_lastValid : (s.endTick).lastValid = s.lastValid := rfl
@[simp] theorem State.endTick_lastIdx : (s.endTick).lastIdx = s.lastIdx := rfl
@[simp] theorem State.endTick_corr : (s.endTick).corr = s.corr := rfl
@[simp] theorem State.endTick_time : (s.endTick).time = s.time := rfl
@[simp] theorem State.endTick_sched : (s.endTick).sched = s.sched := rfl
@[simp] theorem State.endTick_payload : (s.endTick).payload = s.payload := rfl
@[simp] theorem State.endTick_payloadValid : (s.endTick).payloadValid = s.payloadValid := rfl
@[simp] theorem State.endTick_cancel : (s.endTick).cancel = s.cancel := rfl
@[simp] theorem State.endTick_obsEn : (s.endTick).obsEn = s.obsEn := rfl
@[simp] theorem State.endTick_tick : (s.endTick).tick = none := rfl
@[simp] theorem State.endTick_mq : (s.endTick).mq = s.mq := rfl
@[simp] theorem State.endTick_trace : (s.endTick).trace = s.trace ++ [.response .tick (responseWord .ok 0)] := rfl
@[simp] theorem State.endTick_hostPort : (s.endTick).hostPort = s.hostPort := rfl
@[simp] theorem State.endTick_tickPort : (s.endTick).tickPort = s.tickPort := rfl
@[simp] theorem State.endTick_turns : (s.endTick).turns = s.turns := rfl
@[simp] theorem State.endTick_draws : (s.endTick).draws = s.draws := rfl

/-! ### observe -/

@[simp] theorem State.observe_params (time : Int) : (s.observe time).params = s.params := by unfold State.observe; split <;> rfl
@[simp] theorem State.observe_slots (time : Int) : (s.observe time).slots = s.slots := by unfold State.observe; split <;> rfl
@[simp] theorem State.observe_corr (time : Int) : (s.observe time).corr = s.corr := by unfold State.observe; split <;> rfl
@[simp] theorem State.observe_time (time : Int) : (s.observe time).time = s.time := by unfold State.observe; split <;> rfl
@[simp] theorem State.observe_sched (time : Int) : (s.observe time).sched = s.sched := by unfold State.observe; split <;> rfl
@[simp] theorem State.observe_payload (time : Int) : (s.observe time).payload = s.payload := by unfold State.observe; split <;> rfl
@[simp] theorem State.observe_payloadValid (time : Int) : (s.observe time).payloadValid = s.payloadValid := by unfold State.observe; split <;> rfl
@[simp] theorem State.observe_cancel (time : Int) : (s.observe time).cancel = s.cancel := by unfold State.observe; split <;> rfl
@[simp] theorem State.observe_obsEn (time : Int) : (s.observe time).obsEn = s.obsEn := by unfold State.observe; split <;> rfl
@[simp] theorem State.observe_tick (time : Int) : (s.observe time).tick = s.tick := by unfold State.observe; split <;> rfl
@[simp] theorem State.observe_mq (time : Int) : (s.observe time).mq = s.mq := by unfold State.observe; split <;> rfl
@[simp] theorem State.observe_trace (time : Int) : (s.observe time).trace = s.trace := by unfold State.observe; split <;> rfl
@[simp] theorem State.observe_hostPort (time : Int) : (s.observe time).hostPort = s.hostPort := by unfold State.observe; split <;> rfl
@[simp] theorem State.observe_tickPort (time : Int) : (s.observe time).tickPort = s.tickPort := by unfold State.observe; split <;> rfl
@[simp] theorem State.observe_turns (time : Int) : (s.observe time).turns = s.turns := by unfold State.observe; split <;> rfl
@[simp] theorem State.observe_draws (time : Int) : (s.observe time).draws = s.draws := by unfold State.observe; split <;> rfl

theorem State.observe_changed (time : Int) (h : s.slotChanged time = true) :
    s.observe time = { s with lastValid := true, lastIdx := BitVec.ofNat 4 (indexOf time) } := by
  simp [State.observe, h]

theorem State.observe_unchanged (time : Int) (h : s.slotChanged time = false) : s.observe time = s := by
  simp [State.observe, h]

/-- After hasChanged the detector holds the index just seen, whatever it answered (R117). -/
theorem State.observe_remembers (time : Int) :
    (s.observe time).lastValid = true ∧ (s.observe time).lastIdx = BitVec.ofNat 4 (indexOf time) := by
  unfold State.observe
  split
  · exact ⟨rfl, rfl⟩
  · rename_i h
    simpa [State.slotChanged] using h

end Sys2Proof.Machine
end

