-- ==== Sys2Proof/Laws/Build.lean ====
section
/-! SUPPORT. What striping a message into a stream comes to: the old stream, then whole batches of SYNC and sixteen payload positions (20_memory R53; 42_batchbuilder R176, R179, R180). -/

namespace Sys2Proof.Machine

/-- How words are laid from place k of a batch on: place 0 takes a SYNC first, and place 16 is followed by place 0. -/
def lay (p : Params) : Nat → List Word → List Word
  | _, [] => []
  | 0, w :: ws => p.wSync :: w :: lay p 2 ws
  | k + 1, w :: ws => w :: lay p (if k = 15 then 0 else k + 2) ws

/-- The place in its batch of the word that comes next. -/
def place (stream : List Word) : Nat := (stream.length - 18) % 17

theorem batchAligned_place (stream : List Word) : batchAligned stream = (place stream == 0) := rfl

theorem place_append {stream ws : List Word} (h : 18 ≤ stream.length) :
    place (stream ++ ws) = (place stream + ws.length) % 17 := by
  simp only [place, List.length_append]; omega

/-- The payload loop of R176 lays its words one after another. -/
theorem foldl_appendPayloadWord (p : Params) (ws stream : List Word) (h : 18 ≤ stream.length) :
    ws.foldl (appendPayloadWord p) stream = stream ++ lay p (place stream) ws := by
  induction ws generalizing stream with
  | nil => simp [lay]
  | cons w ws ih =>
    have hlt : place stream < 17 := Nat.mod_lt _ (by omega)
    rw [List.foldl_cons]
    by_cases hk : place stream = 0
    · have e : appendPayloadWord p stream w = stream ++ [p.wSync, w] := by
        simp [appendPayloadWord, batchAligned_place, hk]
      rw [e, ih _ (by simp; omega), place_append h, hk]
      simp [lay]
    · have e : appendPayloadWord p stream w = stream ++ [w] := by
        simp [appendPayloadWord, batchAligned_place, hk]
      obtain ⟨k, hk'⟩ := Nat.exists_eq_succ_of_ne_zero hk
      have hp : (k + 1 + 1) % 17 = if k = 15 then 0 else k + 2 := by split <;> omega
      rw [e, ih _ (by simp; omega), place_append h, hk']
      simp [lay, hp]

/-- The padding loop of R176 fills the batch. -/
theorem padBatch_eq (p : Params) (n : Nat) (stream : List Word) (h : 18 ≤ stream.length)
    (hn : (17 - place stream) % 17 ≤ n) :
    padBatch p stream n = stream ++ List.replicate ((17 - place stream) % 17) p.wIdle := by
  have hlt : place stream < 17 := Nat.mod_lt _ (by omega)
  induction n generalizing stream with
  | zero =>
    have : (17 - place stream) % 17 = 0 := by omega
    simp [padBatch, this]
  | succ n ih =>
    by_cases h0 : place stream = 0
    · simp [padBatch, batchAligned_place, h0]
    · have hp : place (stream ++ [p.wIdle]) = (place stream + 1) % 17 := place_append h
      have e : (17 - place stream) % 17 = (17 - (place stream + 1) % 17) % 17 + 1 := by omega
      simp only [padBatch, batchAligned_place, beq_iff_eq, h0, if_false]
      rw [ih _ (by simp; omega) (by omega) (Nat.mod_lt _ (by omega)), hp, e]
      simp [List.replicate_succ]

/-- Words that stay within a batch are laid as they are. -/
theorem lay_within (p : Params) (ws vs : List Word) (k : Nat) (hk : 0 < k) (h : k + ws.length ≤ 16) :
    lay p k (ws ++ vs) = ws ++ lay p (k + ws.length) vs := by
  induction ws generalizing k with
  | nil => rfl
  | cons w ws ih =>
    obtain ⟨k, rfl⟩ := Nat.exists_eq_add_of_lt hk
    simp only [List.length_cons] at h
    simp only [Nat.zero_add, List.cons_append, lay, show k ≠ 15 by omega, if_false, List.length_cons]
    rw [ih (k + 2) (by omega) (by omega), show k + 2 + ws.length = k + 1 + (ws.length + 1) by omega]

/-- Words that end with the batch at the latest are laid as they are. -/
theorem lay_fits (p : Params) (ws : List Word) (k : Nat) (hk : 0 < k) (h : k + ws.length ≤ 17) : lay p k ws = ws := by
  induction ws generalizing k with
  | nil => rfl
  | cons w ws ih =>
    obtain ⟨k, rfl⟩ := Nat.exists_eq_add_of_lt hk
    simp only [List.length_cons] at h
    cases ws with
    | nil => simp [lay]
    | cons v vs =>
      simp only [List.length_cons] at h
      rw [Nat.zero_add, lay, if_neg (by omega), ih (k + 2) (by omega) (by simp; omega)]

/-- The rest of a batch, then the next batch. -/
theorem lay_fill (p : Params) (ws vs : List Word) (h : ws.length = 16) :
    lay p 1 (ws ++ vs) = ws ++ lay p 0 vs := by
  obtain ⟨init, w, rfl⟩ := List.eq_nil_or_concat ws |>.resolve_left (by intro h0; simp [h0] at h)
  rw [List.concat_eq_append] at h ⊢
  rw [List.length_append, List.length_singleton] at h
  rw [List.append_assoc, lay_within p init _ 1 (by omega) (by omega), show 1 + init.length = 16 by omega]
  simp [lay]

/-- Two layings, the second from where the first ended. -/
theorem lay_append (p : Params) (ws vs : List Word) (k : Nat) (hk : k < 17) :
    lay p k (ws ++ vs) = lay p k ws ++ lay p ((k + (lay p k ws).length) % 17) vs := by
  induction ws generalizing k with
  | nil => simp [lay, Nat.mod_eq_of_lt hk]
  | cons w ws ih =>
    cases k with
    | zero => simp only [List.cons_append, lay, ih 2 (by omega), List.length_cons]; congr 4; omega
    | succ k =>
      simp only [List.cons_append, lay, List.length_cons]
      rw [ih _ (by split <;> omega)]
      congr 3
      split <;> omega

/-- Sixteen words to a batch: the shape of whole batches, and what stands at their payload positions. -/
theorem batches_shape (p : Params) (n : Nat) (ws : List Word) (h : ws.length = 16 * (n + 1)) :
    (p.wSync :: lay p 1 ws).length = 17 * (n + 1) ∧
    (∀ b < n + 1, (p.wSync :: lay p 1 ws)[17 * b]? = some p.wSync) ∧
    payloadPositions (p.wSync :: lay p 1 ws) (n + 1) = ws := by
  induction n generalizing ws with
  | zero =>
    have e : lay p 1 ws = ws := by simpa [lay] using lay_fill p ws [] (by omega)
    refine ⟨by simp [e, h], fun b hb => ?_, ?_⟩
    · obtain rfl : b = 0 := by omega
      simp
    · simp [payloadPositions, e, List.take_of_length_le (show ws.length ≤ 16 by omega)]
  | succ n ih =>
    obtain ⟨us, vs, rfl, hu⟩ : ∃ us vs, ws = us ++ vs ∧ us.length = 16 :=
      ⟨ws.take 16, ws.drop 16, (List.take_append_drop 16 ws).symm, by simp; omega⟩
    have hv : vs.length = 16 * (n + 1) := by simp at h; omega
    have e : lay p 1 (us ++ vs) = us ++ p.wSync :: lay p 1 vs := by
      rw [lay_fill p us vs hu]
      cases vs with
      | nil => simp at hv
      | cons v vs => simp [lay]
    obtain ⟨hl, hs, hp⟩ := ih vs hv
    simp only [List.length_cons] at hl
    refine ⟨by simp [e, hu]; omega, fun b hb => ?_, ?_⟩
    · cases b with
      | zero => simp
      | succ b =>
        have hi : 17 * (b + 1) = 17 * b + us.length + 1 := by omega
        rw [e, hi, List.getElem?_cons_succ, List.getElem?_append_right (by omega)]
        simpa using hs b (by omega)
    · have ht : (p.wSync :: (us ++ p.wSync :: lay p 1 vs)).take 17 = p.wSync :: us := by
        simp [hu]
      have hd : (p.wSync :: (us ++ p.wSync :: lay p 1 vs)).drop 17 = p.wSync :: lay p 1 vs := by
        simp [hu]
      rw [e, payloadPositions, ht, hd, hp]
      simp

/-- The payload positions of a message, padded to whole batches (R179 e). -/
def paddedPositions (p : Params) (m : Message) : List Word :=
  List.replicate (2 * framePos m) p.wIdle ++ payloadOf m ++
    List.replicate (16 * batchesOf m - positionsOf m) p.wIdle

theorem batchesOf_le (m : Message) : positionsOf m ≤ 16 * batchesOf m := by unfold batchesOf; omega

theorem paddedPositions_length (p : Params) (m : Message) : (paddedPositions p m).length = 16 * batchesOf m := by
  have := batchesOf_le m
  simp only [paddedPositions, List.length_append, List.length_replicate]
  unfold positionsOf at *; omega

theorem framePos_le {m : Message} (h : messageOk m = true) : framePos m ≤ 7 := by
  cases m <;> simp_all [messageOk, framePos]

/-- The place after n more words, from place k. -/
theorem place_lay (p : Params) (ws : List Word) (k : Nat) (hk : k < 17) (hw : ws ≠ []) :
    (k + (lay p k ws).length) % 17 = (((k + 16) % 17 + ws.length - 1) % 16 + 2) % 17 := by
  induction ws generalizing k with
  | nil => exact absurd rfl hw
  | cons w ws ih =>
    by_cases he : ws = []
    · subst he
      cases k <;> simp [lay]; omega
    · have hl : 0 < ws.length := List.length_pos_iff.mpr he
      cases k with
      | zero =>
        have := ih 2 (by omega) he
        simp only [lay, List.length_cons]; omega
      | succ k =>
        by_cases h15 : k = 15
        · have := ih 0 (by omega) he
          simp only [lay, h15, if_true, List.length_cons]; omega
        · have := ih (k + 2) (by omega) he
          simp only [lay, h15, if_false, List.length_cons]; omega

/-- Striping a message: the old stream, then its batches (R176, R179, R180). -/
theorem appendMessage_eq (p : Params) (stream : List Word) (m : Message) (hm : messageOk m = true)
    (h : 18 ≤ stream.length) (ha : place stream = 0) :
    appendMessage p stream m = stream ++ p.wSync :: lay p 1 (paddedPositions p m) := by
  have hf := framePos_le hm
  have hlen : (stream ++ [p.wSync] ++ List.replicate (2 * framePos m) p.wIdle).length =
      stream.length + 1 + 2 * framePos m := by simp; omega
  have hpl : place (stream ++ [p.wSync] ++ List.replicate (2 * framePos m) p.wIdle) = 1 + 2 * framePos m := by
    rw [List.append_assoc, place_append h, ha]; simp; omega
  have e1 : stream ++ [p.wSync] ++ List.replicate (2 * framePos m) p.wIdle ++
      lay p (1 + 2 * framePos m) (payloadOf m) =
      stream ++ p.wSync :: lay p 1 (List.replicate (2 * framePos m) p.wIdle ++ payloadOf m) := by
    rw [lay_within _ _ _ 1 (by omega) (by simp; omega)]
    simp
  have hw : (List.replicate (2 * framePos m) p.wIdle ++ payloadOf m).length = positionsOf m := by
    simp [positionsOf]; omega
  have hpad : (17 - place (stream ++ p.wSync :: lay p 1 (List.replicate (2 * framePos m) p.wIdle ++ payloadOf m))) % 17
      = 16 * batchesOf m - positionsOf m := by
    rw [place_append h, ha, List.length_cons]
    by_cases h0 : positionsOf m = 0
    · have : List.replicate (2 * framePos m) p.wIdle ++ payloadOf m = [] := List.eq_nil_of_length_eq_zero (by omega)
      simp [this, lay, h0, batchesOf]
    · have := place_lay p (List.replicate (2 * framePos m) p.wIdle ++ payloadOf m) 1 (by omega)
        (by intro hn; rw [hn] at hw; simp at hw; omega)
      rw [hw] at this
      unfold batchesOf; omega
  unfold appendMessage
  rw [foldl_appendPayloadWord _ _ _ (by omega), hpl, e1,
    padBatch_eq _ _ _ (by simp; omega) (by omega), hpad, paddedPositions]
  by_cases h0 : positionsOf m = 0
  · have e : List.replicate (2 * framePos m) p.wIdle ++ payloadOf m = [] := List.eq_nil_of_length_eq_zero (by omega)
    have hb : 16 * batchesOf m - positionsOf m = 16 := by simp [h0, batchesOf]
    simp [e, hb, lay]
  · rw [lay_append _ (_ ++ _) _ 1 (by omega)]
    have hp := place_lay p (List.replicate (2 * framePos m) p.wIdle ++ payloadOf m) 1 (by omega)
        (by intro hn; rw [hn] at hw; simp at hw; omega)
    rw [hw] at hp
    have hr : (positionsOf m - 1) % 16 < 16 := Nat.mod_lt _ (by omega)
    have hpad' : 16 * batchesOf m - positionsOf m = 15 - (positionsOf m - 1) % 16 := by unfold batchesOf; omega
    rw [hp, hpad', show (1 + 16) % 17 + positionsOf m - 1 = positionsOf m - 1 + 0 by omega, Nat.add_zero]
    by_cases hz : (positionsOf m - 1) % 16 = 15
    · simp [hz, lay]
    · rw [lay_fits p (List.replicate (15 - (positionsOf m - 1) % 16) p.wIdle) _ (by omega) (by simp; omega)]
      simp

end Sys2Proof.Machine
end

