-- ==== Sys2Proof/Laws/Words.lean ====
section
/-! SUPPORT. The fields of command, response and event words, and the two directions of the wire format, field by field (30_encoding R81, R86, R93, R98). -/

namespace Sys2Proof.Machine


theorem toNat_append_add {m n : Nat} (a : BitVec m) (b : BitVec n) : (a ++ b).toNat = a.toNat * 2 ^ n + b.toNat := by
  rw [BitVec.toNat_append, ← Nat.shiftLeft_add_eq_or_of_lt b.isLt, Nat.shiftLeft_eq]

theorem fields_toNat (a b : Byte) (c : Half) : (a ++ b ++ c : Word).toNat = a.toNat * 16777216 + b.toNat * 65536 + c.toNat := by
  rw [toNat_append_add, toNat_append_add]; omega

theorem opc_toNat (w : Word) : w.opc.toNat = w.toNat / 16777216 := by
  simp [Word.opc, BitVec.extractLsb'_toNat, Nat.shiftRight_eq_div_pow]; omega

theorem rsv_toNat (w : Word) : w.rsv.toNat = w.toNat / 65536 % 256 := by
  simp [Word.rsv, BitVec.extractLsb'_toNat, Nat.shiftRight_eq_div_pow]

theorem arg_toNat (w : Word) : w.arg.toNat = w.toNat % 65536 := by
  simp [Word.arg, BitVec.extractLsb'_toNat]

theorem ofCode_code (o : Op) : Op.ofCode o.code = some o := by cases o <;> rfl

theorem code_of_ofCode {b : Byte} {o : Op} (h : Op.ofCode b = some o) : o.code = b := by
  have := List.find?_some h
  simpa using this

theorem commandWord_opc (o : Op) (arg : Half) : (commandWord o arg).opc = o.code := by
  apply BitVec.eq_of_toNat_eq
  have := arg.isLt
  rw [opc_toNat, commandWord, fields_toNat]; simp; omega

theorem commandWord_rsv (o : Op) (arg : Half) : (commandWord o arg).rsv = 0 := by
  apply BitVec.eq_of_toNat_eq
  have := arg.isLt
  rw [rsv_toNat, commandWord, fields_toNat]; simp; omega

theorem commandWord_arg (o : Op) (arg : Half) : (commandWord o arg).arg = arg := by
  apply BitVec.eq_of_toNat_eq
  have := arg.isLt
  rw [arg_toNat, commandWord, fields_toNat]; simp; omega


theorem packChars_length (cs : List Byte) : (packChars cs).length = (cs.length + 3) / 4 := by
  fun_induction packChars cs <;> simp_all; omega


theorem unpackWord_packWord (a b c d : Byte) : unpackWord (packWord a b c d) = [a, b, c, d] := by
  have ha := a.isLt; have hb := b.isLt; have hc := c.isLt; have hd := d.isLt
  have h : (packWord a b c d).toNat = d.toNat * 16777216 + c.toNat * 65536 + b.toNat * 256 + a.toNat := by
    unfold packWord
    rw [toNat_append_add, toNat_append_add, toNat_append_add]; omega
  simp only [unpackWord, List.cons.injEq, and_true]
  refine ⟨?_, ?_, ?_, ?_⟩ <;> apply BitVec.eq_of_toNat_eq <;>
    rw [BitVec.extractLsb'_toNat, h, Nat.shiftRight_eq_div_pow] <;> omega


theorem unpack_pack (cs : List Byte) : unpackChars cs.length (packChars cs) = cs := by
  fun_induction packChars cs <;> simp_all [unpackChars, unpackWord_packWord]


theorem flatMap_unpackWord_length (ws : List Word) : (ws.flatMap unpackWord).length = 4 * ws.length := by
  induction ws with
  | nil => rfl
  | cons w ws ih => simp only [List.flatMap_cons, List.length_append, ih, List.length_cons]; simp [unpackWord]; omega

theorem unpackChars_length (len : Nat) (ws : List Word) : (unpackChars len ws).length = min len (4 * ws.length) := by
  rw [unpackChars, List.length_take, flatMap_unpackWord_length]


theorem responseWord_ok (r : Half) : responseWord .ok r = BitVec.ofNat 32 r.toNat := by
  apply BitVec.eq_of_toNat_eq
  have := r.isLt
  rw [responseWord, fields_toNat]; simp [Status.code]; omega


/-- An event word from its three fields (R98). -/
theorem eventWord_fields (e : Event) :
    e.word = BitVec.ofNat 32 (e.code.toNat * 16777216 + e.fieldA.toNat * 65536 + e.fieldB.toNat) := by
  apply BitVec.eq_of_toNat_eq
  have := e.code.isLt
  have := e.fieldA.isLt
  have := e.fieldB.isLt
  rw [Event.word, fields_toNat, BitVec.toNat_ofNat]; omega

theorem half_nat (n : Nat) : half n = BitVec.ofNat 16 n := by simp [half]


theorem half_toNat (n : Int) : ((half n).toNat : Int) = n % 65536 := by
  simp [half, BitVec.toNat_ofInt]; omega


theorem responseWord_nat (n : Nat) (h : n < 65536) : responseWord .ok (half n) = BitVec.ofNat 32 n := by
  rw [responseWord_ok, half_nat]; simp; congr; omega


theorem responseWord_bit (b : Bool) : responseWord .ok (bit b) = if b then 1 else 0 := by cases b <;> rfl

end Sys2Proof.Machine
end

