-- ==== Sys2Proof/Laws/PerInstr.lean ====
section
/-! SUPPORT. What holds of the header of every command, one lemma per constructor of Instr (30_encoding R81, R82, R84). -/

namespace Sys2Proof.Laws.Header

open Sys2Proof Sys2Proof.Machine

/-- The header of a command names its own row of R83, has RSV zero and an ARG its format allows, and counts exactly the operand words that follow it. -/
def Statement (i : Instr) : Prop :=
  ∃ w, encode i = w :: i.operands ∧ w.rsv = 0 ∧ Op.ofCode w.opc = some i.op ∧ i.op.argLegal w.arg = true ∧
    (i.WellFormed → i.operands.length = i.op.operandWords w.arg)

/-- The header built from a row and a legal argument. -/
theorem of_arg (i : Instr) (hl : i.op.argLegal i.arg = true)
    (hn : i.WellFormed → i.operands.length = i.op.operandWords i.arg) : Statement i :=
  ⟨commandWord i.op i.arg, rfl, commandWord_rsv _ _, by rw [commandWord_opc, ofCode_code],
    by rw [commandWord_arg]; exact hl, by rw [commandWord_arg]; exact hn⟩

/-- A count that LEN can say is read back (R82). -/
theorem len_toNat {n : Nat} (h : n ≤ maxLen) : (BitVec.ofNat 16 n).toNat = n := by
  rw [BitVec.toNat_ofNat]; simp only [maxLen] at h; omega

theorem setslots (chars : List Byte) : Statement (.setslots chars) :=
  of_arg _ rfl fun (h : chars.length ≤ maxLen) => by
    simp only [Instr.operands, Instr.op, Instr.arg, Op.operandWords, packChars_length, len_toNat h]

theorem isallowed (slot : Half) : Statement (.isallowed slot) := of_arg _ rfl fun _ => rfl
theorem allowedrun (slot : Half) : Statement (.allowedrun slot) := of_arg _ rfl fun _ => rfl
theorem indexof (time : Half) : Statement (.indexof time) := of_arg _ rfl fun _ => rfl
theorem isnextallowed (time : Half) : Statement (.isnextallowed time) := of_arg _ rfl fun _ => rfl
theorem timetonext (time : Half) : Statement (.timetonext time) := of_arg _ rfl fun _ => rfl
theorem haschanged (time : Half) : Statement (.haschanged time) := of_arg _ rfl fun _ => rfl
theorem tick (wall : Half) : Statement (.tick wall) := of_arg _ rfl fun _ => rfl
theorem gettime : Statement .gettime := of_arg _ rfl fun _ => rfl
theorem correcttime (delta : Half) : Statement (.correcttime delta) := of_arg _ rfl fun _ => rfl
theorem cancel : Statement .cancel := of_arg _ rfl fun _ => rfl

theorem setobserver (enable : Bool) : Statement (.setobserver enable) :=
  of_arg _ (by cases enable <;> rfl) fun _ => rfl

theorem qpush (msg : Message) : Statement (.qpush msg) :=
  of_arg _ rfl fun (h : msg.length ≤ maxLen) => by
    simp only [Instr.operands, Instr.op, Instr.arg, Op.operandWords, len_toNat h]

theorem qempty : Statement .qempty := of_arg _ rfl fun _ => rfl

end Sys2Proof.Laws.Header
end

