-- ==== Sys2Proof/Laws/Plan.lean ====
section
/-! SUPPORT. What the plan queries answer, said once (20_memory R51; 40_timeslotplan R112 to R117). -/

namespace Sys2Proof.Machine

theorem indexOf_half (t : Half) : indexOf (timeArg t) = t.toNat / 64 % 16 := by
  simp [indexOf, timeArg]; omega

theorem slotAllowed_nat (p : Half) (n : Nat) : slotAllowed p n = p.getLsbD (n % 16) := by
  unfold slotAllowed; congr 1

/-- A slot j after the one of a 16-bit time. -/
theorem slotAllowed_after (p t : Half) (j : Nat) :
    slotAllowed p (indexOf (timeArg t) + j) = p.getLsbD ((t.toNat / 64 + j) % 16) := by
  rw [indexOf_half, ← Int.natCast_add, slotAllowed_nat]; congr 1; omega

theorem slotAllowed_current (p t : Half) :
    slotAllowed p (indexOf (timeArg t)) = p.getLsbD (t.toNat / 64 % 16) := by
  simpa using slotAllowed_after p t 0

theorem nextAllowed_half (p t : Half) : nextAllowed p (timeArg t) = p.getLsbD ((t.toNat / 64 + 1) % 16) := by
  simpa [nextAllowed] using slotAllowed_after p t 1

theorem runWithin_le (p : Half) (s : Int) (n : Nat) : runWithin p s n ≤ n := by
  induction n generalizing s with
  | zero => simp [runWithin]
  | succ n ih => have := ih (s + 1); simp only [runWithin]; split <;> omega

theorem allowedRun_le (p : Half) (s : Int) : allowedRun p s ≤ 16 := runWithin_le p s 16

theorem runWithin_all (p : Half) (s : Int) (n : Nat) : ∀ i < runWithin p s n, slotAllowed p (s + i) = true := by
  induction n generalizing s with
  | zero => simp [runWithin]
  | succ n ih =>
    intro i hi
    simp only [runWithin] at hi
    split at hi
    · cases i with
      | zero => simpa using ‹_›
      | succ i => have := ih (s + 1) i (by omega); rw [← this]; congr 1; omega
    · omega

theorem runWithin_stop (p : Half) (s : Int) (n : Nat) (h : runWithin p s n < n) :
    slotAllowed p (s + runWithin p s n) = false := by
  induction n generalizing s with
  | zero => omega
  | succ n ih =>
    simp only [runWithin] at h ⊢
    split
    · rename_i hs
      simp [hs] at h
      rw [← ih (s + 1) h]; congr 1; omega
    · rename_i hs; simpa using hs

theorem runWithin_congr (p : Half) (s t : Int) (n : Nat) (h : s % 16 = t % 16) :
    runWithin p s n = runWithin p t n := by
  induction n generalizing s t with
  | zero => rfl
  | succ n ih =>
    have hs : slotAllowed p s = slotAllowed p t := by unfold slotAllowed; rw [h]
    simp only [runWithin, hs, ih (s + 1) (t + 1) (by omega)]

/-- Only the slot mod 16 counts (R51). -/
theorem allowedRun_congr (p : Half) (s t : Int) (h : s % 16 = t % 16) : allowedRun p s = allowedRun p t :=
  runWithin_congr p s t 16 h

/-- The least distance is found by its two properties (R116). -/
theorem nextDistance_eq_some (p : Half) (t : Int) (j : Nat) :
    nextDistance p t = some j ↔
      (1 ≤ j ∧ j ≤ 16) ∧ slotAllowed p (indexOf t + j) = true ∧
        ∀ k : Nat, 1 ≤ k → k < j → slotAllowed p (indexOf t + k) = false := by
  rw [nextDistance, List.find?_range'_eq_some]
  simp only [List.mem_range'_1, Bool.not_eq_eq_eq_not, Bool.not_true]
  constructor
  · rintro ⟨h1, h2, h3⟩; exact ⟨by omega, h1, fun k hk hk' => h3 k hk hk'⟩
  · rintro ⟨h1, h2, h3⟩; exact ⟨h2, by omega, fun k hk hk' => h3 k hk hk'⟩

theorem slotChanged_half (s : State) (t : Half) :
    s.slotChanged (timeArg t) = true ↔ (s.lastValid = false ∨ s.lastIdx.toNat ≠ t.toNat / 64 % 16) := by
  simp only [State.slotChanged, indexOf_half, Bool.or_eq_true, beq_iff_eq, bne_iff_ne, ne_eq, ← BitVec.toNat_inj,
    BitVec.toNat_ofNat]
  have : t.toNat / 64 % 16 % 2 ^ 4 = t.toNat / 64 % 16 := by omega
  rw [this]

end Sys2Proof.Machine
end

