-- ==== Sys2Proof/Laws/Step.lean ====
section
/-! SUPPORT. What a micro-step and a step can do, said once. -/

namespace Sys2Proof.Machine

/-- The queue's pop, by cases (R203). -/
theorem State.pop_cases (s : State) :
    (s.mq = [] ∧ s.pop = none) ∨ ∃ m rest, s.mq = m :: rest ∧ s.pop = some (m, { s with mq := rest }) := by
  unfold State.pop
  cases h : s.mq with
  | nil => exact .inl ⟨rfl, rfl⟩
  | cons m rest => exact .inr ⟨m, rest, rfl, rfl⟩

/-- No micro-step writes what is the host's or the outside world's (10_state R36). -/
theorem microStep_keeps (pos : TickPos) (s : State) :
    (microStep pos s).params = s.params ∧ (microStep pos s).slots = s.slots ∧ (microStep pos s).corr = s.corr ∧
    (microStep pos s).cancel = s.cancel ∧ (microStep pos s).obsEn = s.obsEn ∧
    (microStep pos s).hostPort = s.hostPort ∧ (microStep pos s).tickPort = s.tickPort ∧
    (microStep pos s).turns = s.turns ∧ (microStep pos s).draws = s.draws := by
  cases pos with
  | buildPop b =>
    rcases s.pop_cases with ⟨-, h⟩ | ⟨m, rest, -, h⟩ <;> simp [microStep, tickBuildPop, h]
  | _ =>
    simp only [microStep, tickT0, tickT1, tickT2, tickT3, tickT4, tickAwaitNext, tickAwaitQueue, tickAwaitLead,
      tickAwaitRun, tickSendGuard, tickSendCall, tickSendDone, tickStillGuard, tickStillQueue, tickStillRun,
      tickBuildTest, tickBuildNofit, tickBuildResult, tickEncodeCall, tickEncodeDone]
    repeat' split
    all_goals simp

/-- Every way a step comes to a next state. The turns left and the counter of free choices are whatever they are. -/
inductive StepMove (s t : State) : Prop
  /-- The host port's next command is performed. -/
  | hostCommand (later : List Turn) (d : Nat) (i : Instr) (rest : List Word)
      (hd : decode .host s.hostPort = .command i rest)
      (he : exec i { s with hostPort := rest, turns := later, draws := d } = .next t)
  /-- The host port's next word is illegal. -/
  | hostIllegal (later : List Turn) (d : Nat) (why : Illegal) (rest : List Word)
      (hd : decode .host s.hostPort = .illegal why rest)
      (ht : t = { s with hostPort := rest, turns := later, draws := d }.refuse .host .illegalCmd)
  /-- The tick port's next command is performed, no tick being in progress. -/
  | tickCommand (later : List Turn) (d : Nat) (i : Instr) (rest : List Word) (hn : s.tick = none)
      (hd : decode .tick s.tickPort = .command i rest)
      (he : exec i { s with tickPort := rest, turns := later, draws := d } = .next t)
  /-- The tick port's next word is illegal, no tick being in progress. -/
  | tickIllegal (later : List Turn) (d : Nat) (why : Illegal) (rest : List Word) (hn : s.tick = none)
      (hd : decode .tick s.tickPort = .illegal why rest)
      (ht : t = { s with tickPort := rest, turns := later, draws := d }.refuse .tick .illegalCmd)
  /-- The tick in progress takes a micro-step. -/
  | micro (later : List Turn) (d : Nat) (pos : TickPos) (hp : s.tick = some pos)
      (ht : t = microStep pos { s with turns := later, draws := d })
  /-- The outstanding ENCODE is answered. -/
  | encodeAnswer (later : List Turn) (arm : Arm) (time : Half) (a : EncodeAnswer)
      (hp : s.tick = some (.encodeWait arm time)) (ht : t = tickEncodeAnswer arm time a { s with turns := later })
  /-- The outstanding SEND is answered. -/
  | sendAnswer (later : List Turn) (time : Half) (a : SendAnswer)
      (hp : s.tick = some (.sendWait time)) (ht : t = tickSendAnswer time a { s with turns := later })
  /-- The reset input. -/
  | reset (later : List Turn) (h : s.turns = .reset :: later) (ht : t = { s with turns := later }.afterReset)
  /-- Nothing but the passing of a turn. -/
  | idle (later : List Turn) (d : Nat) (ht : t = { s with turns := later, draws := d })

theorem hostMove_cases {s t : State} (later : List Turn) (d : Nat)
    (h : hostMove { s with turns := later, draws := d } = .next t) : StepMove s t := by
  unfold hostMove at h
  split at h
  · exact .hostCommand later d _ _ ‹_› h
  · cases h; exact .hostIllegal later d _ _ ‹_› rfl
  · cases h; exact .idle later d rfl

theorem tickMove_cases {s t : State} (later : List Turn) (d : Nat)
    (h : tickMove { s with turns := later, draws := d } = .next t) : StepMove s t := by
  unfold tickMove at h
  split at h
  · cases h; exact .micro later d _ ‹_› rfl
  · split at h
    · exact .tickCommand later d _ _ ‹_› ‹_› h
    · cases h; exact .tickIllegal later d _ _ ‹_› ‹_› rfl
    · cases h; exact .idle later d rfl

/-- The inversion of the step: every next state comes by one of these moves. -/
theorem step_cases {s t : State} (h : step s = .next t) : StepMove s t := by
  unfold step nextMove at h
  split at h
  · rename_i turn later hturns
    cases turn with
    | host => exact hostMove_cases later s.draws h
    | tick => exact tickMove_cases later s.draws h
    | encodeAnswer a =>
      simp only [takeTurn, encodeAnswerMove] at h
      split at h
      · cases h; exact .encodeAnswer later _ _ a ‹_› rfl
      · cases h; exact .idle later s.draws rfl
    | sendAnswer a =>
      simp only [takeTurn, sendAnswerMove] at h
      split at h
      · cases h; exact .sendAnswer later _ a ‹_› rfl
      · cases h; exact .idle later s.draws rfl
    | reset => cases h; exact .reset later hturns rfl
    | forcedTick =>
      simp only [takeTurn] at h
      split at h
      · cases h
      · exact tickMove_cases later s.draws h
    | foreignPop => cases h
  · unfold freeMove at h
    split at h
    · split at h
      · exact hostMove_cases s.turns (s.draws + 1) h
      · exact tickMove_cases s.turns (s.draws + 1) h
    · exact hostMove_cases s.turns s.draws h
    · exact tickMove_cases s.turns s.draws h
    · cases h; exact .idle s.turns s.draws rfl

/-- On the tick engine's turn a tick in progress takes its micro-step. -/
theorem step_tick {s : State} {pos : TickPos} {later : List Turn} (hp : s.tick = some pos)
    (ht : s.turns = .tick :: later) : step s = .next (microStep pos { s with turns := later }) := by
  simp [step, nextMove, ht, takeTurn, tickMove, hp]

/-- The tick port carries no command but TICK (30_encoding R83). -/
theorem decode_tick_port {ws : List Word} {i : Instr} {rest : List Word} (h : decode .tick ws = .command i rest) :
    ∃ wall, i = .tick wall := by
  cases ws with
  | nil => cases h
  | cons w tl =>
    simp only [decode] at h
    repeat' split at h
    all_goals try cases h
    rename_i o _ hp _ _
    cases o <;> simp_all [Op.port, assemble]

/-- The host port carries no TICK (30_encoding R83). -/
theorem decode_host_port {ws : List Word} {i : Instr} {rest : List Word} (h : decode .host ws = .command i rest) :
    i.port = .host := by
  cases ws with
  | nil => cases h
  | cons w tl =>
    simp only [decode] at h
    repeat' split at h
    all_goals try cases h
    rename_i o _ hp _ _
    cases o <;> simp_all [Op.port, assemble, Instr.port, Instr.op]

/-- An accepted TICK, as one equation (R131). -/
theorem execTick_idle (wall : Half) (s : State) (h : s.tick = none) :
    exec (.tick wall) s = .next (s.goto (.t0 wall)) := by
  simp [exec, execTick, State.tickBusy, h]

end Sys2Proof.Machine
end

