-- ==== Sys2Proof/Laws/Tick.lean ====
section
/-! SUPPORT. A tick that runs alone, one micro-step at a time (41_scheduler R130). -/

namespace Sys2Proof.Machine

variable (e : EncodeAnswer) (a : SendAnswer)

theorem tickAlone_idle (n : Nat) {s : State} (h : s.tick = none) : tickAlone e a n s = .next s := by
  cases n <;> simp [tickAlone, h]

/-- A run goes on from its first step. -/
theorem tickAlone_step (n : Nat) {s t : State} {pos : TickPos} (h : s.tick = some pos)
    (hs : step { s with turns := ownTurn e a s :: s.turns } = .next t) :
    tickAlone e a (n + 1) s = tickAlone e a n t := by
  rw [tickAlone, hs, h]

/-- A position that waits for nothing takes its micro-step. -/
theorem tickAlone_micro (n : Nat) {s : State} {pos : TickPos} (h : s.tick = some pos) (hw : pos.waiting = false) :
    tickAlone e a (n + 1) s = tickAlone e a n (microStep pos s) := by
  have ho : ownTurn e a s = .tick := by cases pos <;> simp_all [ownTurn, TickPos.waiting]
  exact tickAlone_step e a n h (by rw [ho]; exact step_tick h rfl)

/-- An outstanding ENCODE is answered. -/
theorem tickAlone_encodeWait (n : Nat) {s : State} {arm : Arm} {time : Half} (h : s.tick = some (.encodeWait arm time)) :
    tickAlone e a (n + 1) s = tickAlone e a n (tickEncodeAnswer arm time e s) := by
  have ho : ownTurn e a s = .encodeAnswer e := by simp [ownTurn, h]
  have hm : encodeAnswerMove e s = tickEncodeAnswer arm time e s := by simp [encodeAnswerMove, h]
  refine tickAlone_step e a n h ?_
  rw [ho]
  exact congrArg Host.Outcome.next hm

/-- An outstanding SEND is answered. -/
theorem tickAlone_sendWait (n : Nat) {s : State} {time : Half} (h : s.tick = some (.sendWait time)) :
    tickAlone e a (n + 1) s = tickAlone e a n (tickSendAnswer time a s) := by
  have ho : ownTurn e a s = .sendAnswer a := by simp [ownTurn, h]
  have hm : sendAnswerMove a s = tickSendAnswer time a s := by simp [sendAnswerMove, h]
  refine tickAlone_step e a n h ?_
  rw [ho]
  exact congrArg Host.Outcome.next hm

/-- Two runs one after the other. -/
theorem tickAlone_add (m n : Nat) {s t : State} (h : tickAlone e a m s = .next t) :
    tickAlone e a (m + n) s = tickAlone e a n t := by
  induction m generalizing s with
  | zero => cases h; simp
  | succ m ih =>
    rw [show m + 1 + n = m + n + 1 by omega, tickAlone]
    rw [tickAlone] at h
    split at h
    · rename_i ht
      cases h
      rw [tickAlone_idle e a _ ht]
    · rename_i pos ht
      split at h
      · exact ih h
      · cases h
      · cases h

end Sys2Proof.Machine
end

