-- ==== Sys2Proof/Machine/Assembler.lean ====
section
/-! DEFINITION. The textual form of commands and responses (30_encoding R99) and the pseudo-commands (R100, R152). No step reads either (log entry 24). -/

namespace Sys2Proof.Machine

/-- The pseudo-commands of R100; there are no others. -/
inductive Pseudo where
  /-- SETTIMESLOTS s (R100 a, R152). -/
  | settimeslots (chars : List Byte)
  /-- IDENTIFY (R100 b). -/
  | identify
  /-- TICKS w0..w1 (R100 c). -/
  | ticks (first last : Nat)
  /-- CORRECTTIME with any delta (R100 d). -/
  | correcttime (delta : Int)
  deriving DecidableEq, Repr

/-- The commands a pseudo-command stands for, in order (R100).
DESIGN CHOICE (log entry 26): TICKS with a last number below the first is no tick; a range across the wrap is written with a last number above 65535. -/
def Pseudo.expand : Pseudo → List Instr
  | .settimeslots chars => [.setslots chars]
  | .identify => [.gettime]
  | .ticks first last => (List.range (last + 1 - first)).map fun (k : Nat) => Instr.tick (half ((first + k : Nat) : Int))
  | .correcttime delta => [.correcttime (half delta)]

/-- A decimal number. -/
def decimalText (n : Nat) : List Char := Nat.toDigits 10 n

/-- A signed decimal number, its sign always written. -/
def signedText (n : Int) : List Char :=
  match n with
  | .ofNat k => '+' :: decimalText k
  | .negSucc k => '-' :: decimalText (k + 1)

/-- A hexadecimal digit, capitals for 10 to 15. -/
def hexChar (d : Nat) : Char := Char.ofNat (if d < 10 then 48 + d else 55 + d)

/-- A number as `0x` and that many hexadecimal digits. -/
def hexText (digits n : Nat) : List Char :=
  '0' :: 'x' :: (List.range digits).reverse.map fun k => hexChar (n / 16 ^ k % 16)

/-- The double quote that opens and closes a slot-plan string. -/
def quoteChar : Char := Char.ofNat 34

/-- A character of a slot-plan string, by its ASCII code (R94). -/
def byteChar (c : Byte) : Char := Char.ofNat c.toNat

/-- The elements of a message between the brackets. -/
def elementsText : Message → List Char
  | [] => []
  | [w] => hexText 8 w.toNat
  | w :: ws => hexText 8 w.toNat ++ [',', ' '] ++ elementsText ws

/-- The mnemonic of R83. -/
def mnemonicText : Op → List Char
  | .setslots => ['S', 'E', 'T', 'S', 'L', 'O', 'T', 'S']
  | .isallowed => ['I', 'S', 'A', 'L', 'L', 'O', 'W', 'E', 'D']
  | .allowedrun => ['A', 'L', 'L', 'O', 'W', 'E', 'D', 'R', 'U', 'N']
  | .indexof => ['I', 'N', 'D', 'E', 'X', 'O', 'F']
  | .isnextallowed => ['I', 'S', 'N', 'E', 'X', 'T', 'A', 'L', 'L', 'O', 'W', 'E', 'D']
  | .timetonext => ['T', 'I', 'M', 'E', 'T', 'O', 'N', 'E', 'X', 'T']
  | .haschanged => ['H', 'A', 'S', 'C', 'H', 'A', 'N', 'G', 'E', 'D']
  | .tick => ['T', 'I', 'C', 'K']
  | .gettime => ['G', 'E', 'T', 'T', 'I', 'M', 'E']
  | .correcttime => ['C', 'O', 'R', 'R', 'E', 'C', 'T', 'T', 'I', 'M', 'E']
  | .cancel => ['C', 'A', 'N', 'C', 'E', 'L']
  | .setobserver => ['S', 'E', 'T', 'O', 'B', 'S', 'E', 'R', 'V', 'E', 'R']
  | .qpush => ['Q', 'P', 'U', 'S', 'H']
  | .qempty => ['Q', 'E', 'M', 'P', 'T', 'Y']

/-- The operand after the mnemonic, one of the spellings R99 allows: decimal for format A, hexadecimal for a codeword. -/
def operandText : Instr → List Char
  | .setslots chars => ' ' :: quoteChar :: (chars.map byteChar ++ [quoteChar])
  | .isallowed a | .allowedrun a | .indexof a | .isnextallowed a | .timetonext a | .haschanged a
  | .tick a => ' ' :: decimalText a.toNat
  | .correcttime delta => ' ' :: signedText (deltaArg delta)
  | .setobserver enable => ' ' :: decimalText (if enable then 1 else 0)
  | .qpush [] => [' ', '[', ']']
  | .qpush (f :: payload) =>
    ' ' :: '[' :: decimalText f.toNat ++ (if payload = [] then [] else [',', ' '] ++ elementsText payload) ++ [']']
  | .gettime | .cancel | .qempty => []

/-- A command as R99 writes it. -/
def commandText (i : Instr) : List Char := mnemonicText i.op ++ operandText i

/-- The status names of R87. -/
def statusText : Status → List Char
  | .ok => ['O', 'K']
  | .illegalCmd => ['I', 'L', 'L', 'E', 'G', 'A', 'L', '_', 'C', 'M', 'D']
  | .badDigit => ['B', 'A', 'D', '_', 'D', 'I', 'G', 'I', 'T']
  | .badMessage => ['B', 'A', 'D', '_', 'M', 'E', 'S', 'S', 'A', 'G', 'E']
  | .queueFull => ['Q', 'U', 'E', 'U', 'E', '_', 'F', 'U', 'L', 'L']

/-- A response as R99 writes it: the arrow, the status, the result as hexadecimal. -/
def responseText (st : Status) (result : Half) : List Char :=
  ['-', '>', ' '] ++ statusText st ++ ' ' :: hexText 4 result.toNat

end Sys2Proof.Machine
end

