-- ==== Sys2Proof/Tests/Slice0.lean ====
section
/-! SUPPORT. Tests on single steps, their expected results from spec/95_test_vectors.md (V-E1 and so on name its vectors), and a witness for every statement with hypotheses. -/

namespace Sys2Proof.Tests

open Sys2Proof Sys2Proof.Machine

/-! ### Helper states -/

/-- The reset state with a plan. -/
def planned (plan : Half) : State := { State.reset with slots := plan }

/-- The reset state with a plan, words on the host port and the host's turn listed. -/
def hostTurn (plan : Half) (ws : List Word) : State := { planned plan with hostPort := ws, turns := [.host] }

/-- A tick in progress at a position, with n turns of the tick engine listed. -/
def ticking (n : Nat) (pos : TickPos) (s : State) : State :=
  { s.goto pos with turns := List.replicate n .tick }

/-- The outputs of an outcome. -/
def outputs : Host.Outcome State Fault Refusal → List Output
  | .next t => t.trace
  | _ => []

/-- A field of the next state, if there is one. -/
def after {α : Type} (o : Host.Outcome State Fault Refusal) (f : State → α) : Option α :=
  match o with
  | .next t => some (f t)
  | _ => none

/-- One response on the host port. -/
def answer (w : Word) : List Output := [.response .host w]

/-- A message of n payload words, all equal, frame position 0. -/
def flat (n : Nat) : Message := 0 :: List.replicate n 0xC1

/-! ### Well-formedness (30_encoding R82, R93, R96): a list longer than LEN can say is refused -/

theorem test_setslots_too_long_is_ill_formed : ¬ (Instr.setslots (List.replicate 65536 0x30)).WellFormed := by
  rw [Instr.WellFormed, List.length_replicate]; decide
theorem test_setslots_longest_is_well_formed : (Instr.setslots (List.replicate 65535 0x30)).WellFormed :=
  Nat.le_of_eq List.length_replicate
theorem test_qpush_too_long_is_ill_formed : ¬ (Instr.qpush (List.replicate 65536 1)).WellFormed := by
  rw [Instr.WellFormed, List.length_replicate]; decide
theorem test_qpush_longest_is_well_formed : (Instr.qpush (List.replicate 65535 1)).WellFormed :=
  Nat.le_of_eq List.length_replicate

/-! ### Decoding: V-E1, one word or more for every constructor -/

theorem test_decode_setslots :
    decode .host [0x10000004, 0x63383430] = .command (.setslots [0x30, 0x34, 0x38, 0x63]) [] := by decide
theorem test_decode_setslots_high_bytes_ignored :
    decode .host [0x10000001, 0xFFFFFF34] = .command (.setslots [0x34]) [] := by decide
theorem test_decode_isallowed : decode .host [0x11000004] = .command (.isallowed 4) [] := by decide
theorem test_decode_allowedrun : decode .host [0x1200000E] = .command (.allowedrun 14) [] := by decide
theorem test_decode_indexof : decode .host [0x13001234] = .command (.indexof 0x1234) [] := by decide
theorem test_decode_isnextallowed : decode .host [0x140000C0] = .command (.isnextallowed 192) [] := by decide
theorem test_decode_timetonext : decode .host [0x150000BD] = .command (.timetonext 189) [] := by decide
theorem test_decode_haschanged : decode .host [0x16000040] = .command (.haschanged 64) [] := by decide
theorem test_decode_tick : decode .tick [0x200000FD] = .command (.tick 253) [] := by decide
theorem test_decode_gettime : decode .host [0x21000000] = .command .gettime [] := by decide
theorem test_decode_correcttime :
    decode .host [0x2200FF38] = .command (.correcttime (BitVec.ofInt 16 (-200))) [] := by decide
theorem test_decode_cancel : decode .host [0x23000000] = .command .cancel [] := by decide
theorem test_decode_setobserver : decode .host [0x24000001] = .command (.setobserver true) [] := by decide
theorem test_decode_qpush :
    decode .host [0x40000003, 0x3, 0x11111111, 0x22222222, 0x43000000] =
      .command (.qpush [3, 0x11111111, 0x22222222]) [0x43000000] := by decide
theorem test_decode_qempty : decode .host [0x43000000] = .command .qempty [] := by decide

/-- V-E2: the refusals of the decoder. -/
theorem test_decode_illegal :
    decode .host [0x00000000] = .illegal .unassigned [] ∧ decode .host [0x30000001] = .illegal .unassigned [] ∧
    decode .host [0x41000000] = .illegal .unassigned [] ∧ decode .host [0x11010004] = .illegal .reserved [] ∧
    decode .host [0x21000001] = .illegal .argument [] ∧ decode .host [0x24000002] = .illegal .argument [] ∧
    decode .host [0x200000FD] = .illegal .wrongPort [] ∧ decode .tick [0x21000000] = .illegal .wrongPort [] := by
  decide

/-- V-E1: the other direction, for one command of each format. -/
theorem test_encode :
    encode (.setslots [0x34]) = [0x10000001, 0x00000034] ∧ encode .cancel = [0x23000000] ∧
    encode (.correcttime (BitVec.ofInt 16 (-3))) = [0x2200FFFD] ∧ encode (.qpush [7]) = [0x40000001, 7] := by decide

/-- R83: the words of the opcode table, on whichever port takes them; SETSLOTS with LEN 1 and its operand word zero. -/
theorem test_table_words :
    decodeTableWord 32 0x20000000 = some (.tick 0) ∧ decodeTableWord 32 0x24000001 = some (.setobserver true) ∧
    decodeTableWord 32 0x10000001 = some (.setslots [0]) ∧ decodeTableWord 32 0x30000000 = none := by decide

/-! ### TimeSlotPlan: V-T1 to V-T7 -/

theorem test_setslots_replaces :
    after (exec (.setslots [0x63, 0x38, 0x34, 0x30, 0x30]) (planned 0xFFFF)) (fun t => (t.slots, t.trace)) =
      some (0x1111, answer 0) := by decide
theorem test_setslots_bad_digit :
    after (exec (.setslots [0x30, 0x34, 0x78, 0x38]) (planned 0x1111)) (fun t => (t.slots, t.trace)) =
      some (0x1111, answer 0x02000000) := by decide
theorem test_isallowed_wraps : outputs (exec (.isallowed 0xFFFC) (planned 0x1111)) = answer 1 := by decide
theorem test_isallowed_not : outputs (exec (.isallowed 21) (planned 0x1111)) = answer 0 := by decide
theorem test_allowedrun_wraps : outputs (exec (.allowedrun 30) (planned 0xC003)) = answer 4 := by decide
theorem test_allowedrun_all : outputs (exec (.allowedrun 5) (planned 0xFFFF)) = answer 16 := by decide
theorem test_indexof : outputs (exec (.indexof 0x1234) State.reset) = answer 8 := by decide
theorem test_indexof_last : outputs (exec (.indexof 0xFFC0) State.reset) = answer 15 := by decide
theorem test_isnextallowed_wraps : outputs (exec (.isnextallowed 65535) (planned 0x1111)) = answer 1 := by decide
theorem test_isnextallowed_not : outputs (exec (.isnextallowed 256) (planned 0x1111)) = answer 0 := by decide
theorem test_timetonext_far : outputs (exec (.timetonext 189) (planned 0x1111)) = answer 67 := by decide
theorem test_timetonext_whole_cycle : outputs (exec (.timetonext 256) (planned 0x0010)) = answer 1024 := by decide
theorem test_haschanged_first :
    after (exec (.haschanged 10) State.reset) (fun t => (t.lastValid, t.lastIdx, t.trace)) =
      some (true, 0, answer 1) := by decide
theorem test_haschanged_same_slot :
    after (exec (.haschanged 100) { State.reset with lastValid := true, lastIdx := 1 })
      (fun t => (t.lastIdx, t.trace)) = some (1, answer 0) := by decide

/-! ### Scheduler commands and the queue: V-S1, V-S2, V-Q1 -/

theorem test_tick_accepted :
    after (exec (.tick 253) State.reset) (fun t => (t.tick, t.tickBusy, t.trace)) =
      some (some (.t0 253), true, []) := by decide
theorem test_tick_waits :
    after (exec (.tick 253) (State.reset.goto .finish)) (fun t => (t.tick, t.tickPort)) =
      some (some .finish, [0x200000FD]) := by decide
theorem test_gettime : outputs (exec .gettime { State.reset with time := 0x1064 }) = answer 0x1064 := by decide
theorem test_correcttime_wraps :
    after (exec (.correcttime 5) { State.reset with corr := 0xFFFD }) (fun t => (t.corr, t.time)) =
      some (2, 0) := by decide
theorem test_correcttime_negative :
    after (exec (.correcttime (BitVec.ofInt 16 (-100))) State.reset) State.corr = some 0xFF9C := by decide
theorem test_cancel : after (exec .cancel State.reset) (fun t => (t.cancel, t.trace)) = some (true, answer 0) := by
  decide
theorem test_setobserver_off :
    after (exec (.setobserver false) { State.reset with obsEn := true }) State.obsEn = some false := by decide
theorem test_qpush_appends :
    after (exec (.qpush [7]) { State.reset with mq := [[0, 1]] }) (fun t => (t.mq, t.trace)) =
      some ([[0, 1], [7]], answer 0) := by decide
theorem test_qpush_bad_message :
    outputs (exec (.qpush [8, 1]) State.reset) = answer 0x03000000 ∧
    outputs (exec (.qpush []) State.reset) = answer 0x03000000 := by decide
theorem test_qempty : outputs (exec .qempty State.reset) = answer 1 := by decide
theorem test_qempty_not : outputs (exec .qempty { State.reset with mq := [[7]] }) = answer 0 := by decide

/-! ### The tick: V-S1, V-S3 to V-S7 -/

theorem test_time_base :
    (tickTime 0xFFF0 { State.reset with corr := 0x64 }, tickTime 0x63 { State.reset with corr := 0xFF9C },
     tickTime 0x8000 { State.reset with corr := 0x8000 }) = (0x54, 0xFFFF, 0) := by decide

/-- V-S3: the three conditions at 252, 253, 255, 256 and 189, plan 0x0010, queue non-empty. -/
theorem test_awaiting_guard :
    ([252, 253, 255, 256, 189] : List Half).map (fun time =>
      after (step (ticking 1 (.awaitLead time (nextAllowed 0x0010 (timeArg time)) true) (planned 0x0010))) State.tick) =
    [some (some .finish), some (some (.awaitRun 253)), some (some (.awaitRun 255)), some (some .finish),
     some (some .finish)] := by decide

/-- V-S4: a send waits for its slot. -/
theorem test_send_guard :
    after (step (ticking 1 (.sendGuard 255) (planned 0x0010))) State.tick = some (some .finish) ∧
    after (step (ticking 1 (.sendGuard 256) (planned 0x0010))) State.tick = some (some (.sendCall 256)) := by decide

/-- V-S5: the slot is over. -/
theorem test_still_guard :
    after (step (ticking 1 (.stillGuard 320) { planned 0x0010 with sched := .slotStillAllowed })) State.sched =
      some .awaitingSlot := by decide

/-- V-S6: a cancelled tick. -/
theorem test_cancelled_tick :
    after (steps 2 (ticking 2 (.t0 191) { State.reset with cancel := true })) (fun t => (t.time, t.tick, t.trace)) =
      some (0, none, [.response .tick 0]) := by decide

/-- V-S7: no observer, so no event, but the change is consumed. -/
theorem test_change_consumed_unobserved :
    after (steps 2 (ticking 2 (.t2 0) State.reset)) (fun t => (t.lastValid, t.trace)) = some (true, []) := by decide

/-- V-E3: event words. -/
theorem test_event_words :
    (Event.obsNotify 0x1111).word = 0x01001111 ∧ (Event.logEncodeFail .awaitingSlot 1021).word = 0x100003FD ∧
    (Event.logEncodeFail .slotStillAllowed 257).word = 0x10020101 ∧ (Event.logSendFail 1024).word = 0x11010400 ∧
    (Event.logNofit 14 13).word = 0x120E000D ∧ (Event.logNofit 2 (-2)).word = 0x1202FFFE := by decide

/-! ### BUILD: V-B1 to V-B8 -/

theorem test_max_batches :
    (List.range 17).map (maxBatches Params.default) =
      [-2, 13, 27, 41, 55, 69, 83, 97, 111, 126, 140, 154, 168, 182, 196, 210, 224] := by decide

/-- V-B1: the two points where floating point would differ (90_conflicts C10). -/
theorem test_max_batches_exact :
    maxBatches { Params.default with delayMs := 480 } 1 = 12 ∧
    maxBatches { Params.default with delayMs := 1680 } 15 = 207 := by decide

/-- The fixed words of the tests below, one letter each: P, S, I. -/
def letters : Params := { Params.default with wPreamble := 0xAA, wSync := 0x55, wIdle := 0x11 }

/-- V-B2: one message, frame offset and padding. -/
theorem test_stripe_one :
    (appendMessage letters (preamble letters) [3, 0xA1, 0xA2, 0xA3, 0xA4, 0xA5]).drop 18 =
      [0x55] ++ List.replicate 6 0x11 ++ [0xA1, 0xA2, 0xA3, 0xA4, 0xA5] ++ List.replicate 5 0x11 := by decide

/-- V-B3: the second message crosses a batch boundary. -/
theorem test_stripe_boundary :
    (appendMessage letters (List.replicate 35 0) [7, 0xB1, 0xB2, 0xB3]).drop 35 =
      [0x55] ++ List.replicate 14 0x11 ++ [0xB1, 0xB2, 0x55, 0xB3] ++ List.replicate 15 0x11 := by decide

set_option maxRecDepth 2000 in
/-- V-B4: exactly sixteen payload words need no filling. -/
theorem test_stripe_sixteen :
    (appendMessage letters (preamble letters) (flat 16)).drop 18 = [0x55] ++ List.replicate 16 0xC1 := by decide

/-- V-B7: no payload. -/
theorem test_stripe_empty :
    (appendMessage letters (preamble letters) [5]).drop 18 = [0x55] ++ List.replicate 16 0x11 := by decide

/-- V-B8 with V-B6: maxBatches 2 (DELAY_MS 5000, one slot) lets a message of one batch go and not one of two; that one blocks the queue, behind a consumed message and alone. -/
theorem test_head_of_line :
    (buildLoop letters { startBuild { letters with delayMs := 5000 } .awaiting 0 1 with
        stream := List.replicate 35 0, consumed := 1 } [flat 17, flat 1]).2 = ([flat 17, flat 1], none) ∧
    (buildLoop letters (startBuild { letters with delayMs := 5000 } .awaiting 0 1) [flat 17, flat 1]).2 =
      ([flat 17, flat 1], some 3) := by decide

/-- V-B8: no capacity. -/
theorem test_no_capacity :
    (buildLoop letters (startBuild letters .awaiting 0 0) [flat 1]).2 = ([flat 1], some 2) := by decide

/-! ### The place the step fetches from -/

theorem test_fetch_host :
    after (step (State.reset.withFetchWord 32 0x23000000)) (fun t => (t.cancel, t.hostPort, t.trace)) =
      some (true, [], answer 0) := by decide
theorem test_fetch_tick :
    after (step (State.reset.withFetchWord 32 0x200000FD)) State.tick = some (some (.t0 253)) := by decide
theorem test_fetch_variable_length :
    after (step (State.reset.withFetchWord 32 0x40000002)) (fun t => (t.mq, t.hostPort)) =
      some ([[0, 0]], []) := by decide

/-! ### Text and pseudo-commands (30_encoding R99, R100) -/

theorem test_text :
    commandText (.correcttime (BitVec.ofInt 16 (-3))) =
      ['C', 'O', 'R', 'R', 'E', 'C', 'T', 'T', 'I', 'M', 'E', ' ', '-', '3'] ∧
    commandText (.qpush [3, 0x11111111]) =
      ['Q', 'P', 'U', 'S', 'H', ' ', '[', '3', ',', ' ', '0', 'x', '1', '1', '1', '1', '1', '1', '1', '1', ']'] ∧
    responseText .ok 0x1234 = ['-', '>', ' ', 'O', 'K', ' ', '0', 'x', '1', '2', '3', '4'] := by decide
theorem test_pseudo :
    (Pseudo.ticks 65535 65537).expand = [.tick 65535, .tick 0, .tick 1] ∧
    (Pseudo.ticks 3 3).expand = [.tick 3] ∧
    (Pseudo.correcttime 65541).expand = [.correcttime 5] ∧ Pseudo.identify.expand = [.gettime] := by decide

/-! ### Witnesses: for every statement with hypotheses, values that meet them, clause by clause -/

/-- A tick in progress that runs BUILD on a queue of two messages, the capacity 2 batches. -/
def building : BuildLocals :=
  { arm := .awaiting, time := 253, maxBatches := 2, stream := preamble Params.default, consumed := 0 }

theorem witness_DecodeInvertsEncode : ∀ i ∈ ([.setslots [], .isallowed 4, .allowedrun 0, .indexof 65535, .isnextallowed 0,
    .timetonext 0, .haschanged 0, .tick 0, .gettime, .correcttime 0x8000, .cancel, .setobserver true, .qpush [],
    .qempty] : List Instr), i.WellFormed := by simp [Instr.WellFormed]

theorem witness_IllegalExactlyOutsideTheTable :
    ¬ InTable .host 0x30000001 ∧ InTable .host 0x24000001 ∧ ¬ InTable .host 0x24000002 ∧
    InTable .tick 0x2000FFFF ∧ ¬ InTable .host 0x2000FFFF ∧
    decode .host [0x30000001, 7] = .illegal .unassigned [7] := by decide

theorem witness_DecodeTakesExactlyTheCommand :
    decode .host [0x40000001, 7, 9] = .command (.qpush [7]) [9] ∧
    decode .host [0x10000000, 9] = .command (.setslots []) [9] ∧
    decode .host [0x10000005, 0x63383430, 0x58, 9] = .command (.setslots [0x30, 0x34, 0x38, 0x63, 0x58]) [9] ∧
    decode .host [0x43000000, 9] = .command .qempty [9] := by decide

theorem witness_HostStepRunsTheDecodedCommand :
    decode .host (hostTurn 0 [0x23000000]).hostPort = .command .cancel [] ∧
    (hostTurn 0 [0x23000000]).turns = [.host] ∧
    ({ hostTurn 0 [0x23000000] with turns := [] }).tickReady = false := by decide

theorem witness_UnlistedTurnMovesOneAgent :
    (State.reset.turns = [] ∧ State.reset.hostReady = false ∧ State.reset.tickReady = false) ∧
    ({ State.reset with hostPort := [0x23000000], tickPort := [0x20000000] }).hostReady = true ∧
    ({ State.reset with hostPort := [0x23000000], tickPort := [0x20000000] }).tickReady = true := by decide

theorem witness_TickStepRunsTheDecodedCommand :
    ({ State.reset with tickPort := [0x20000005], turns := [.tick] }).tick = none ∧
    decode .tick [0x20000005] = .command (.tick 5) [] ∧
    ({ State.reset with tickPort := [0x20000005] }).hostReady = false := by decide

theorem witness_IllegalWordIsAnswered :
    (hostTurn 0 [0x21000001]).turns = [.host] ∧ (hostTurn 0 [0x21000001]).hostPort = [0x21000001] ∧
    ¬ InTable .host 0x21000001 ∧
    ({ State.reset with tickPort := [0x21000000], turns := [.tick] }).tick = none ∧ ¬ InTable .tick 0x21000000 := by
  decide

theorem witness_IncompleteCommandWaits :
    (hostTurn 0 [0x10000005, 0x63383430]).turns = [.host] ∧
    ((0x10000005 : Word).toNat / 65536 = 0x1000 ∧ [(0x63383430 : Word)].length < ((0x10000005 : Word).toNat % 65536 + 3) / 4) ∧
    (hostTurn 0 [0x4000FFFF]).turns = [.host] ∧
    (0x4000FFFF : Word).toNat / 65536 = 0x4000 ∧ ([] : List Word).length < (0x4000FFFF : Word).toNat % 65536 := by decide

theorem witness_TickPortHeldOff :
    ({ ticking 1 (.sendWait 256) State.reset with tickPort := [0x20000000] }).tick = some (.sendWait 256) ∧
    ({ ticking 1 (.sendWait 256) State.reset with tickPort := [0x20000000] }).turns = [.tick] := by decide

theorem witness_BrokenObligationsAreRefused :
    ({ State.reset.goto .finish with turns := [.forcedTick] }).tickBusy = true ∧
    ({ State.reset.goto .finish with turns := [.forcedTick] }).turns = [.forcedTick] ∧
    ({ State.reset with turns := [.foreignPop] }).turns = [.foreignPop] := by decide

theorem witness_ResetAbandonsEverything :
    ({ State.reset.goto (.sendWait 1) with turns := [.reset], hostPort := [0x40000002, 0] }).turns = [.reset] ∧
    decode .host [0x40000002, 0] = .incomplete ∧ decode .host [0x23000000] ≠ .incomplete := by decide

theorem witness_SetslotsReplacesThePlan :
    (∀ c ∈ ([0x30, 0x46, 0x66, 0x39, 0x61] : List Byte), (hexDigit c).isSome = true) ∧
    (∀ c ∈ ([] : List Byte), (hexDigit c).isSome = true) ∧
    (∃ c ∈ ([0x30, 0x67] : List Byte), hexDigit c = none) ∧ hexDigit 0x2F = none ∧ hexDigit 0x3A = none ∧
    hexDigit 0x40 = none ∧ hexDigit 0x47 = none ∧ hexDigit 0x60 = none := by decide

/-- j = 1 and j = 16, the two ends of the range, and the empty plan. -/
theorem witness_TimetonextAnswersTheLead :
    (planned 0x0020).slots.getLsbD (((256 : Half).toNat / 64 + 1) % 16) = true ∧
    ((planned 0x0010).slots.getLsbD (((256 : Half).toNat / 64 + 16) % 16) = true ∧
      ∀ k < 16, 1 ≤ k → (planned 0x0010).slots.getLsbD (((256 : Half).toNat / 64 + k) % 16) = false) ∧
    (planned 0).slots = 0 := by decide

theorem witness_SlotPlanFacts :
    nextAllowed 0x0010 192 = true ∧ slotAllowed 0x0010 4 = true ∧ timeToNext 0 253 = none ∧ indexOf 65535 = 15 ∧
    (∃ t u, exec (.setslots [0x34]) (planned 1) = .next t ∧ exec (.setslots [0x34]) t = .next u) :=
  ⟨by decide, by decide, by decide, by decide, _, _, rfl, rfl⟩

theorem witness_TickIsAcceptedWhenIdle : State.reset.tickBusy = false := by decide

theorem witness_CorrecttimeAccumulates :
    ∃ t u, exec (.correcttime 0x7FFF) State.reset = .next t ∧ exec (.correcttime 0x8000) t = .next u :=
  ⟨_, _, rfl, rfl⟩

/-- The frame positions 7 and 8, the empty list, and a queue at its depth. -/
theorem witness_QpushAppendsOrRefuses :
    (∃ (f : Word) (payload : List Word), ([8, 1] : Message) = f :: payload ∧ 7 < f.toNat) ∧ (7 : Word).toNat ≤ 7 ∧
    ({ State.reset with params := { Params.default with qdepth := some 1 }, mq := [[0]] }).params.qdepth =
      some (({ State.reset with mq := [[0]] }).mq.length + State.reset.held) ∧
    ({ State.reset with params := { Params.default with qdepth := some 1 } }).params.qdepth ≠
      some (State.reset.mq.length + State.reset.held) :=
  ⟨⟨8, [1], rfl, by decide⟩, by decide, by decide, by decide⟩

theorem witness_HostCommandsWriteOnlyTheirRow : (Instr.setslots [0x34]).port = .host ∧ (Instr.qpush [0]).port = .host := by
  decide

/-- Two states that differ in everything the statement says a response does not show. -/
theorem witness_ResponsesHideTheEngineState :
    let s := { State.reset with mq := [[0, 1]] }
    let r := { State.reset with mq := [[7], [5]], sched := .dataEncoded, corr := 9, cancel := true, obsEn := true }
    (Instr.isallowed 3).port = .host ∧ r.slots = s.slots ∧ r.lastValid = s.lastValid ∧ r.lastIdx = s.lastIdx ∧
    r.time = s.time ∧ r.mq.isEmpty = s.mq.isEmpty ∧ r.queueFull = s.queueFull ∧ r.trace = s.trace ∧
    (∃ t, exec (.isallowed 3) s = .next t) ∧ ∃ u, exec (.isallowed 3) r = .next u :=
  ⟨by decide, rfl, rfl, rfl, rfl, rfl, rfl, rfl, ⟨_, rfl⟩, ⟨_, rfl⟩⟩

theorem witness_CancelledTickIsANoOp :
    (ticking 2 (.t0 9) { State.reset with cancel := true }).tick = some (.t0 9) ∧
    (ticking 2 (.t0 9) { State.reset with cancel := true }).cancel = true ∧
    (ticking 2 (.t0 9) { State.reset with cancel := true }).turns = [.tick, .tick] := by decide

theorem witness_TimeBaseIsSampledAtTOne :
    (ticking 1 (.t1 0xFFF0) State.reset).tick = some (.t1 0xFFF0) ∧
    (ticking 1 (.t1 0xFFF0) State.reset).turns = [.tick] := by decide

theorem witness_SlotChangeIsReportedOnce :
    (ticking 2 (.t2 64) State.reset).tick = some (.t2 64) ∧
    (ticking 2 (.t2 64) State.reset).turns = [.tick, .tick] := by decide

theorem witness_AwaitingGoesInTheLastThreeTicks :
    (ticking 3 (.awaitNext 253) (planned 16)).tick = some (.awaitNext 253) ∧
    (ticking 3 (.awaitNext 253) (planned 16)).turns = [.tick, .tick, .tick] := by decide

theorem witness_EncodeOutcome :
    (ticking 1 (.encodeDone .awaiting 1 .fail) State.reset).sched = Arm.awaiting.startState ∧
    (ticking 1 (.encodeDone .still 1 (.ok ⟨5⟩)) { State.reset with sched := .slotStillAllowed }).sched =
      Arm.still.startState ∧
    (ticking 1 (.encodeDone .still 1 .fail) State.reset).turns = [.tick] := by decide

theorem witness_SendOutcomeFailsForward :
    (ticking 1 (.sendDone 1 .fail) State.reset).tick = some (.sendDone 1 .fail) ∧
    (ticking 1 (.sendDone 1 .fail) State.reset).turns = [.tick] := by decide

theorem witness_UnfitMessageGoesBackToTheHead :
    building.maxBatches < (neededBatches building.stream (flat 17) : Int) ∧ building.consumed = 0 ∧
    ({ building with consumed := 1 }).consumed ≠ 0 ∧
    (ticking 2 (.buildTest building (flat 17)) State.reset).turns = [.tick, .tick] := by decide

theorem witness_RequeueKeepsTheOrder :
    ({ State.reset.goto (.buildPop building) with mq := [flat 17, [1]] }).tick = some (.buildPop building) ∧
    ({ State.reset with mq := [flat 17, [1]] }).mq = flat 17 :: [[1]] ∧
    building.maxBatches < (neededBatches building.stream (flat 17) : Int) ∧ messageOk [7] = true ∧
    State.reset.params.qdepth = none := by decide

theorem witness_CapacityIsTheExactFloor : (16 : Nat) ≤ 16 ∧ maxBatches { Params.default with delayMs := 65535 } 0 = -146 := by
  decide

theorem witness_MessageOccupiesWholeBatches :
    messageOk [7] = true ∧ messageOk [8] = false ∧ StreamShape Params.default (preamble Params.default) := by decide

/-- A stream of one batch, to stripe behind. -/
theorem witness_StripingKeepsTheShape :
    messageOk (flat 17) = true ∧
    StreamShape letters (preamble letters ++ 0x55 :: List.replicate 16 0x11) := by decide

theorem witness_PayloadStandsAtItsFrame :
    (7 : Word).toNat ≤ 7 ∧ StreamShape letters (preamble letters) := by decide

theorem witness_FullBatchesAreConsumedUpToTheMargin :
    ∀ m ∈ ([flat 16, 7 :: [1, 2], flat 16] : List Message), messageOk m = true ∧ positionsOf m = 16 := by decide

/-- No capacity at slotCount 0, and a message of 3569 positions. -/
theorem witness_UnsendableHeadStaysAtTheHead :
    maxBatches Params.default 0 ≤ 0 ∧ (16 : Nat) ≤ 16 ∧ 3568 < positionsOf (flat 3569) := by
  refine ⟨by decide, by decide, ?_⟩
  rw [positionsOf, flat, payloadOf, List.tail_cons, List.length_replicate]
  exact Nat.lt_of_lt_of_le (Nat.lt_succ_self 3568) (Nat.le_add_right _ _)

theorem witness_UninterruptedBuildIsAFunction :
    (State.reset.goto (.buildPop building)).tick = some (.buildPop building) := by decide

theorem witness_UninterruptedTickIsTheWholeTick : (State.reset.goto (.t0 253)).tick = some (.t0 253) := by decide

/-- A tick in each STATE, cancelled and not; times with the next slot allowed, the current slot allowed, and neither. -/
theorem witness_TransitionTableOfAnUninterruptedTick :
    ∀ st ∈ ([.awaitingSlot, .dataEncoded, .slotStillAllowed] : List SchedState),
      ∀ cancelled ∈ [true, false],
        ({ (planned 0x0010).goto (.t0 253) with sched := st, cancel := cancelled, mq := [flat 1] }).tick = some (.t0 253) ∧
        (253 : Half).toNat = ((253 : Half).toNat + (planned 0x0010).corr.toNat) % 65536 ∧
        0 < allowedRun 0x0010 (253 / 64 + 1 : Nat) ∧ allowedRun 0x0010 (253 / 64 : Nat) = 0 ∧
        0 < allowedRun 0x0010 (256 / 64 : Nat) ∧
        (buildLoop Params.default (startBuild Params.default .awaiting 253 1) [flat 1]).1.consumed ≠ 0 := by decide

theorem witness_EveryTickEndsAnswered : (State.reset.goto (.sendWait 256)).tick = some (.sendWait 256) := by decide

theorem witness_EventsOfATickComeInOrder : (State.reset.goto (.t0 64)).tick = some (.t0 64) := by decide

/-- A state amid a BUILD meets the invariant, and its step answers. -/
theorem witness_EveryStepKeepsTheInvariant :
    let s := { ticking 1 (.buildTest building (flat 17)) State.reset with mq := [[7]] }
    s.Inv ∧ ∃ t, step s = .next t := by
  refine ⟨⟨by decide, by decide, (fun _ h => nomatch h), ?_⟩, _, rfl⟩
  intro pos hpos
  cases hpos
  exact ⟨by decide, rfl, rfl⟩

/-- A state about to hand a stream of one batch to the Transmitter. -/
theorem witness_EveryEncodedStreamIsWellShaped :
    let stream := preamble Params.default ++ Params.default.wSync :: List.replicate 16 0
    let s := ticking 1 (.encodeCall .awaiting 253 stream) State.reset
    s.Inv ∧ ∃ t, step s = .next t ∧ t.trace = s.trace ++ [.request (.encode stream)] := by
  refine ⟨⟨by decide, by decide, (fun _ h => nomatch h), ?_⟩, _, rfl, rfl⟩
  intro pos hpos
  cases hpos
  exact ⟨by decide, by decide, by decide, rfl⟩

/-- The three ways STATE moves, each from a state that meets the invariant. -/
theorem witness_StateMovesOnlyAlongTheTable :
    let s1 := ticking 1 (.encodeDone .awaiting 253 (.ok ⟨1⟩)) State.reset
    let s2 := ticking 1 (.sendDone 256 .ok) { State.reset with sched := .dataEncoded, payloadValid := true }
    let s3 := ticking 1 (.stillGuard 320) { State.reset with sched := .slotStillAllowed }
    (s1.Inv ∧ s1.turns.head? ≠ some .reset ∧ ∃ t, step s1 = .next t ∧ t.sched ≠ s1.sched) ∧
    (s2.Inv ∧ ∃ t, step s2 = .next t ∧ t.sched ≠ s2.sched) ∧
    (s3.Inv ∧ ∃ t, step s3 = .next t ∧ t.sched ≠ s3.sched) := by
  refine ⟨⟨⟨by decide, by decide, (fun _ h => nomatch h), ?_⟩, by decide, _, rfl, by decide⟩,
    ⟨⟨by decide, by decide, (fun _ h => nomatch h), ?_⟩, _, rfl, by decide⟩,
    ⟨⟨by decide, by decide, (fun _ h => nomatch h), ?_⟩, _, rfl, by decide⟩⟩
  all_goals
    intro pos hpos
    cases hpos
    rfl

theorem witness_SendStartsOnlyInAnAllowedSlot :
    (∃ t, step (ticking 1 (.sendGuard 256) (planned 0x0010)) = .next t ∧ t.tick = some (.sendCall 256)) ∧
    ∃ t, step (ticking 1 (.sendCall 256) State.reset) = .next t ∧ t.trace = [.request (.send ⟨0⟩)] :=
  ⟨⟨_, rfl, rfl⟩, _, rfl, rfl⟩

/-- A payload encoded and about to be sent. -/
theorem witness_EverySendCarriesTheLastEncodedPayloadOnce :
    let s := { ticking 1 (.sendCall 256) { State.reset with sched := .dataEncoded, payload := ⟨4⟩, payloadValid := true } with
      trace := [.encodeAnswer (.ok ⟨4⟩)] }
    s.Inv ∧ lastUnsent s.trace = s.unsent ∧
      ∃ t, step s = .next t ∧ t.trace = s.trace ++ [.request (.send ⟨4⟩)] := by
  refine ⟨⟨by decide, by decide, (fun _ h => nomatch h), ?_⟩, by decide, _, rfl, rfl⟩
  intro pos hpos
  cases hpos
  rfl

theorem witness_NothingIsSentAfterCancel :
    let s := ticking 1 (.t0 64) { State.reset with cancel := true }
    s.Silenced ∧ s.turns.head? ≠ some .reset ∧ ∃ t, step s = .next t :=
  ⟨⟨rfl, trivial⟩, by decide, _, rfl⟩

/-- Steps that write TIME, SLOTS, CORR, OBS_EN, CANCEL and PAYLOAD. -/
theorem witness_RegistersAreWrittenOnlyByTheirWriters :
    (∃ t, step (ticking 1 (.t1 7) State.reset) = .next t ∧ t.time ≠ 0) ∧
    (∃ t, step (hostTurn 0 [0x10000001, 0x34]) = .next t ∧ t.slots ≠ 0) ∧
    (∃ t, step (hostTurn 0 [0x22000001]) = .next t ∧ t.corr ≠ 0) ∧
    (∃ t, step (hostTurn 0 [0x24000001]) = .next t ∧ t.obsEn ≠ false) ∧
    (∃ t, step (hostTurn 0 [0x23000000]) = .next t ∧ t.cancel ≠ false) ∧
    ∃ t, step (ticking 1 (.encodeDone .awaiting 1 (.ok ⟨9⟩)) State.reset) = .next t ∧
      t.payload ≠ State.reset.payload ∧ t.payloadValid = true :=
  ⟨⟨_, rfl, by decide⟩, ⟨_, rfl, by decide⟩, ⟨_, rfl, by decide⟩, ⟨_, rfl, by decide⟩, ⟨_, rfl, by decide⟩,
    _, rfl, by decide, rfl⟩

/-- Steps that write LASTVALID and LASTIDX (twice), PAYLOAD_VALID, STATE and TICK_BUSY (twice). -/
theorem witness_RegistersAreWrittenOnlyByTheirWriters_flags :
    (∃ t, step (ticking 1 (.t2 64) State.reset) = .next t ∧ t.lastValid ≠ false ∧ t.lastIdx ≠ 0) ∧
    (∃ t, step (hostTurn 0 [0x16000040]) = .next t ∧ t.lastValid ≠ false ∧ t.lastIdx ≠ 0) ∧
    (∃ t, step (ticking 1 (.sendDone 256 .ok) { State.reset with payloadValid := true }) = .next t ∧
      t.payloadValid = false ∧ t.sched ≠ .awaitingSlot) ∧
    (∃ t, step { State.reset with tickPort := [0x20000005], turns := [.tick] } = .next t ∧ t.tickBusy ≠ false) ∧
    ∃ t, step (ticking 1 .finish State.reset) = .next t ∧ t.tickBusy ≠ true :=
  ⟨⟨_, rfl, by decide, by decide⟩, ⟨_, rfl, by decide, by decide⟩, ⟨_, rfl, rfl, by decide⟩, ⟨_, rfl, by decide⟩,
    _, rfl, by decide⟩

/-- Steps that write MQ: a push, BUILD's pop, BUILD's push back. -/
theorem witness_RegistersAreWrittenOnlyByTheirWriters_queue :
    (∃ t, step (hostTurn 0 [0x40000001, 7]) = .next t ∧ t.mq ≠ []) ∧
    (∃ t, step { ticking 1 (.buildPop building) State.reset with mq := [[7]] } = .next t ∧ t.mq ≠ [[7]]) ∧
    ∃ t, step (ticking 1 (.buildTest building (flat 17)) State.reset) = .next t ∧ t.mq ≠ [] :=
  ⟨⟨_, rfl, by decide⟩, ⟨_, rfl, by decide⟩, _, rfl, by decide⟩

end Sys2Proof.Tests
end

section
/-! Who moves in a step and what is fetched: the step by its listed turn, the free move where one agent alone can move, and the command a port's words decode to (00_scope R9, R10; 20_memory R60; 30_encoding R84). -/

namespace Sys2Proof.Machine

variable {s : State}

/-! ### Which move a step is -/

/-- With a turn listed the step is that turn's, at the state without it. -/
theorem step_of_turn {t : Turn} {later : List Turn} (h : s.turns = t :: later) :
    step s = takeTurn t { s with turns := later } := by
  simp only [step, nextMove, h]

theorem step_of_no_turn (h : s.turns = []) : step s = freeMove s := by
  simp only [step, nextMove, h]

/-- R61: the host moves where it alone can. -/
theorem freeMove_of_host_only (hh : s.hostReady = true) (ht : s.tickReady = false) : freeMove s = hostMove s := by
  simp only [freeMove, hh, ht]

/-- R61: the tick engine moves where it alone can. -/
theorem freeMove_of_tick_only (hh : s.hostReady = false) (ht : s.tickReady = true) : freeMove s = tickMove s := by
  simp only [freeMove, hh, ht]

/-! ### A port whose words decode to a command (R84) -/

variable {i : Instr} {rest : List Word}

theorem portReady_of_command {p : Port} {ws : List Word} (hd : decode p ws = .command i rest) :
    portReady p ws = true := by
  simp only [portReady, hd]

theorem tickReady_of_command (hn : s.tick = none) (hd : decode .tick s.tickPort = .command i rest) :
    s.tickReady = true := by
  simp only [State.tickReady, hn, portReady_of_command hd]

theorem hostMove_of_command (hd : decode .host s.hostPort = .command i rest) :
    hostMove s = exec i { s with hostPort := rest } := by
  simp only [hostMove, hd]

theorem tickMove_of_command (hn : s.tick = none) (hd : decode .tick s.tickPort = .command i rest) :
    tickMove s = exec i { s with tickPort := rest } := by
  simp only [tickMove, hn, hd]

/-! ### Breaches of the platform's obligations (R10) -/

/-- R253: a tick forced into a running one is refused. -/
theorem takeTurn_forcedTick_of_busy (h : s.tickBusy = true) : takeTurn .forcedTick s = .refused .overlappingTicks :=
  if_pos h

/-! ### The statements -/

/-- Settles O5: the host's turn and the free move of the host alone are both `hostMove`, which performs what it decodes. -/
theorem hostStepRunsTheDecodedCommand : Obligations.HostStepRunsTheDecodedCommand := by
  intro s i rest hd
  constructor
  · intro later hturns
    calc step s = hostMove { s with turns := later } := step_of_turn hturns
      _ = exec i { s with hostPort := rest, turns := later } := hostMove_of_command hd
  · intro hturns htick
    calc step s = freeMove s := step_of_no_turn hturns
      _ = hostMove s := freeMove_of_host_only (portReady_of_command hd) htick
      _ = exec i { s with hostPort := rest } := hostMove_of_command hd

/-- Settles O7: with no tick in progress the tick engine's turn and its free move are both `tickMove`, which performs what it decodes. -/
theorem tickStepRunsTheDecodedCommand : Obligations.TickStepRunsTheDecodedCommand := by
  intro s i rest hn hd
  constructor
  · intro later hturns
    calc step s = tickMove { s with turns := later } := step_of_turn hturns
      _ = exec i { s with tickPort := rest, turns := later } := tickMove_of_command hn hd
  · intro hturns hhost
    calc step s = freeMove s := step_of_no_turn hturns
      _ = tickMove s := freeMove_of_tick_only hhost (tickReady_of_command hn hd)
      _ = exec i { s with tickPort := rest } := tickMove_of_command hn hd

/-- Settles O11: the turn listed first is the breach itself, and what it does is a refusal. -/
theorem brokenObligationsAreRefused : Obligations.BrokenObligationsAreRefused := by
  intro s later
  constructor
  · intro hturns hbusy
    exact (step_of_turn hturns).trans (takeTurn_forcedTick_of_busy hbusy)
  · intro hturns
    exact step_of_turn hturns

end Sys2Proof.Machine
end

section
/-! What a host command writes and what it answers, said once (10_state R36; 30_encoding R86, R87). -/

namespace Sys2Proof.Machine

/-- R36's table: the one thing a host command may write beside the trace, where it writes anything. -/
inductive HostWrite (s : State) : Instr → State → Prop
  | nothing (i : Instr) : HostWrite s i s
  | plan (chars : List Byte) (plan : Half) (h : planOf chars = some plan) : HostWrite s (.setslots chars) (s.setPlan plan)
  | detector (time : Half) : HostWrite s (.haschanged time) (s.observe (timeArg time))
  | correction (delta : Half) : HostWrite s (.correcttime delta) { s with corr := half (s.corr.toNat + deltaArg delta) }
  | cancelled : HostWrite s .cancel s.setCancel
  | observer (enable : Bool) : HostWrite s (.setobserver enable) (s.setObserver enable)
  | pushed (msg : Message) (hok : messageOk msg = true) (hroom : s.queueFull = false) :
      HostWrite s (.qpush msg) (s.push msg)

/-- The response word of a host command, read off the state it finds; TICK answers elsewhere. -/
def hostAnswer (s : State) : Instr → Word
  | .setslots chars => responseWord (if (planOf chars).isSome then .ok else .badDigit) 0
  | .isallowed slot => responseWord .ok (bit (slotAllowed s.slots (slotArg slot)))
  | .allowedrun slot => responseWord .ok (half (allowedRun s.slots (slotArg slot)))
  | .indexof time => responseWord .ok (half (indexOf (timeArg time)))
  | .isnextallowed time => responseWord .ok (bit (nextAllowed s.slots (timeArg time)))
  | .timetonext time => responseWord .ok (half ((timeToNext s.slots (timeArg time)).getD 0))
  | .haschanged time => responseWord .ok (bit (s.slotChanged (timeArg time)))
  | .gettime => responseWord .ok s.time
  | .correcttime _ | .cancel | .setobserver _ | .tick _ => responseWord .ok 0
  | .qpush msg =>
    responseWord (if messageOk msg = false then .badMessage else if s.queueFull then .queueFull else .ok) 0
  | .qempty => responseWord .ok (bit s.queueEmpty)

/-- Every host command writes within its row and then answers, once (R36, R86). -/
theorem exec_host (i : Instr) (s : State) (hp : i.port = .host) :
    ∃ u, HostWrite s i u ∧ exec i s = .next (u.out (.response .host (hostAnswer s i))) := by
  cases i with
  | tick wall => cases hp
  | setslots chars =>
    cases hc : planOf chars with
    | none => exact ⟨s, .nothing _, by simp [exec, execSetslots, hc, hostAnswer]⟩
    | some plan => exact ⟨_, .plan chars plan hc, by simp [exec, execSetslots, hc, hostAnswer]⟩
  | haschanged time => exact ⟨_, .detector time, rfl⟩
  | correcttime delta => exact ⟨_, .correction delta, rfl⟩
  | cancel => exact ⟨_, .cancelled, rfl⟩
  | setobserver enable => exact ⟨_, .observer enable, rfl⟩
  | qpush msg =>
    by_cases hok : messageOk msg = true
    · by_cases hroom : s.queueFull = true
      · exact ⟨s, .nothing _, by simp [exec, execQpush, hok, hroom, hostAnswer]⟩
      · exact ⟨_, .pushed msg hok (by simpa using hroom), by simp [exec, execQpush, hok, hroom, hostAnswer]⟩
    · exact ⟨s, .nothing _, by simp [exec, execQpush, hok, hostAnswer]⟩
  | isallowed _ | allowedrun _ | indexof _ | isnextallowed _ | timetonext _ | gettime | qempty =>
    exact ⟨s, .nothing _, rfl⟩

/-- `exec_host` for a command whose next state is known. -/
theorem exec_host_next {i : Instr} {s t : State} (hp : i.port = .host) (he : exec i s = .next t) :
    ∃ u, HostWrite s i u ∧ t = u.out (.response .host (hostAnswer s i)) := by
  obtain ⟨u, hw, h⟩ := exec_host i s hp
  exact ⟨u, hw, Host.Outcome.next.inj (he.symm.trans h)⟩

/-- What the host's move comes to where it decodes a command. -/
theorem hostCommand_next {s t : State} {later : List Turn} {d : Nat} {i : Instr} {rest : List Word}
    (hd : decode .host s.hostPort = .command i rest)
    (he : exec i { s with hostPort := rest, turns := later, draws := d } = .next t) :
    ∃ u w, HostWrite { s with hostPort := rest, turns := later, draws := d } i u ∧ t = u.out (.response .host w) := by
  obtain ⟨u, hw, ht⟩ := exec_host_next (decode_host_port hd) he
  exact ⟨u, _, hw, ht⟩

/-- R131: the tick port's only command starts a tick, where none is in progress. -/
theorem tickCommand_next {s t : State} {later : List Turn} {d : Nat} {i : Instr} {rest : List Word}
    (hn : s.tick = none) (hd : decode .tick s.tickPort = .command i rest)
    (he : exec i { s with tickPort := rest, turns := later, draws := d } = .next t) :
    ∃ wall, i = .tick wall ∧ t = { s with tickPort := rest, turns := later, draws := d }.goto (.t0 wall) := by
  obtain ⟨wall, rfl⟩ := decode_tick_port hd
  exact ⟨wall, rfl, Host.Outcome.next.inj (he.symm.trans (execTick_idle wall _ hn))⟩

/-- What no host command writes (R36): the engine's registers, the tick and everything the outside world holds. -/
theorem HostWrite.keeps {s u : State} {i : Instr} (h : HostWrite s i u) :
    u.params = s.params ∧ u.time = s.time ∧ u.sched = s.sched ∧ u.payload = s.payload ∧
    u.payloadValid = s.payloadValid ∧ u.tick = s.tick ∧ u.hostPort = s.hostPort ∧ u.tickPort = s.tickPort ∧
    u.turns = s.turns ∧ u.draws = s.draws := by
  cases h <;> simp

/-- A host command sends nothing but its answer (R86). -/
theorem HostWrite.trace {s u : State} {i : Instr} (h : HostWrite s i u) : u.trace = s.trace := by
  cases h <;> simp

/-- What a host command of another row leaves as it is (R36). -/
theorem HostWrite.row {s u : State} {i : Instr} (h : HostWrite s i u) :
    (i.op ≠ .setslots → u.slots = s.slots) ∧
    (i.op ≠ .haschanged → u.lastValid = s.lastValid ∧ u.lastIdx = s.lastIdx) ∧
    (i.op ≠ .correcttime → u.corr = s.corr) ∧ (i.op ≠ .cancel → u.cancel = s.cancel) ∧
    (i.op ≠ .setobserver → u.obsEn = s.obsEn) ∧ (i.op ≠ .qpush → u.mq = s.mq) := by
  cases h <;> simp [Instr.op]

/-- A response reads nothing of the state but SLOTS, the detector, TIME and whether the queue is empty or full (R239). -/
theorem hostAnswer_congr {s r : State} (i : Instr) (hslots : r.slots = s.slots) (hvalid : r.lastValid = s.lastValid)
    (hidx : r.lastIdx = s.lastIdx) (htime : r.time = s.time) (hempty : r.queueEmpty = s.queueEmpty)
    (hfull : r.queueFull = s.queueFull) : hostAnswer r i = hostAnswer s i := by
  cases i <;> simp only [hostAnswer, State.slotChanged, hslots, hvalid, hidx, htime, hempty, hfull]

/-- Settles O26: the command is one write of its row and one response. -/
theorem hostCommandsWriteOnlyTheirRow : Obligations.HostCommandsWriteOnlyTheirRow := by
  intro i s hp
  obtain ⟨u, hw, he⟩ := exec_host i s hp
  obtain ⟨hparams, htime, hsched, hpay, hvalid, htick, hhost, hport, hturns, hdraws⟩ := hw.keeps
  exact ⟨_, _, he, congrArg (· ++ _) hw.trace, hparams, htime, hsched, hpay, hvalid, htick, hhost, hport, hturns, hdraws, hw.row⟩

/-- Settles O27: the trace grows by the answer, and the answer reads only what the two states share. -/
theorem responsesHideTheEngineState : Obligations.ResponsesHideTheEngineState := by
  intro i s r t u hp hslots hvalid hidx htime hempty hfull htrace ht hu
  obtain ⟨s', hws, rfl⟩ := exec_host_next hp ht
  obtain ⟨r', hwr, rfl⟩ := exec_host_next hp hu
  rw [State.out_trace, State.out_trace, hws.trace, hwr.trace, htrace, hostAnswer_congr i hslots hvalid hidx htime hempty hfull]

end Sys2Proof.Machine
end

section
/-! What a micro-step does, branch by branch, with the guard of each branch (41_scheduler R132 to R147; 42_batchbuilder R174 to R177). -/

namespace Sys2Proof.Machine

/-- The micro-steps that only go on to another position: nothing is written and nothing goes out. -/
inductive Goes (s : State) : TickPos → TickPos → Prop
  | cancelled (wall : Half) (h : s.cancel = true) : Goes s (.t0 wall) .finish
  | proceeds (wall : Half) (h : s.cancel = false) : Goes s (.t0 wall) (.t1 wall)
  | unobserved (time : Half) (ch : Bool) (h : (ch && s.obsEn) = false) : Goes s (.t3 time ch) (.t4 time)
  | toAwaiting (time : Half) (h : s.sched = .awaitingSlot) : Goes s (.t4 time) (.awaitNext time)
  | toSend (time : Half) (h : s.sched = .dataEncoded) : Goes s (.t4 time) (.sendGuard time)
  | toStill (time : Half) (h : s.sched = .slotStillAllowed) : Goes s (.t4 time) (.stillGuard time)
  | awaitNext (time : Half) : Goes s (.awaitNext time) (.awaitQueue time (nextAllowed s.slots (timeArg time)))
  | awaitQueue (time : Half) (a : Bool) : Goes s (.awaitQueue time a) (.awaitLead time a (!s.queueEmpty))
  | awaitMet (time : Half) (a q : Bool) (h : (a && q && leadShort (timeToNext s.slots (timeArg time))) = true) :
      Goes s (.awaitLead time a q) (.awaitRun time)
  | awaitUnmet (time : Half) (a q : Bool) (h : (a && q && leadShort (timeToNext s.slots (timeArg time))) = false) :
      Goes s (.awaitLead time a q) .finish
  | awaitRun (time : Half) : Goes s (.awaitRun time)
      (.buildPop (startBuild s.params .awaiting time (allowedRun s.slots (indexOf (timeArg time) + 1))))
  | sendAllowed (time : Half) (h : slotAllowed s.slots (indexOf (timeArg time)) = true) :
      Goes s (.sendGuard time) (.sendCall time)
  | sendWaits (time : Half) (h : slotAllowed s.slots (indexOf (timeArg time)) = false) : Goes s (.sendGuard time) .finish
  | stillAllowed (time : Half) (h : slotAllowed s.slots (indexOf (timeArg time)) = true) :
      Goes s (.stillGuard time) (.stillQueue time)
  | stillEmpty (time : Half) (h : s.queueEmpty = true) : Goes s (.stillQueue time) .finish
  | stillFilled (time : Half) (h : s.queueEmpty = false) : Goes s (.stillQueue time) (.stillRun time)
  | stillRun (time : Half) : Goes s (.stillRun time)
      (.buildPop (startBuild s.params .still time (allowedRun s.slots (indexOf (timeArg time)))))
  | popEmpty (b : BuildLocals) (h : s.mq = []) : Goes s (.buildPop b) (.buildResult b)
  | consumes (b : BuildLocals) (m : Message) (h : (neededBatches b.stream m : Int) ≤ b.maxBatches) :
      Goes s (.buildTest b m) (.buildPop (consumeMessage s.params b m))
  | builtNothing (b : BuildLocals) (hc : b.consumed = 0) (ha : b.arm = .awaiting) : Goes s (.buildResult b) .finish
  | built (b : BuildLocals) (hc : b.consumed ≠ 0) : Goes s (.buildResult b) (.encodeCall b.arm b.time b.stream)

/-- The micro-steps that send one output and go on to another position, and write no register. -/
inductive Sends (s : State) : TickPos → Output → TickPos → Prop
  | notifies (time : Half) (ch : Bool) (h : (ch && s.obsEn) = true) :
      Sends s (.t3 time ch) (.event (Event.obsNotify s.slots).word) (.t4 time)
  | asksSend (time : Half) : Sends s (.sendCall time) (.request (.send s.payload)) (.sendWait time)
  | logsNofit (b : BuildLocals) (needed : Nat) :
      Sends s (.buildNofit b needed) (.event (Event.logNofit needed b.maxBatches).word) (.buildResult b)
  | asksEncode (arm : Arm) (time : Half) (stream : List Word) :
      Sends s (.encodeCall arm time stream) (.request (.encode stream)) (.encodeWait arm time)
  | logsEncodeFail (time : Half) : Sends s (.encodeDone .awaiting time .fail)
      (.event (Event.logEncodeFail .awaitingSlot time).word) .finish

/-- Every branch of every micro-step: the state it leads to from `s` at that position. -/
inductive MicroMove (s : State) : TickPos → State → Prop
  | goes {pos next : TickPos} (h : Goes s pos next) : MicroMove s pos (s.goto next)
  | sends {pos next : TickPos} {o : Output} (h : Sends s pos o next) : MicroMove s pos ((s.out o).goto next)
  | waits {pos : TickPos} (h : pos.waiting = true) : MicroMove s pos s
  | timeBase (wall : Half) :
      MicroMove s (.t1 wall) ({ s with time := tickTime wall s }.goto (.t2 (tickTime wall s)))
  | detector (time : Half) :
      MicroMove s (.t2 time) ((s.observe (timeArg time)).goto (.t3 time (s.slotChanged (timeArg time))))
  | sendOk (time : Half) :
      MicroMove s (.sendDone time .ok) ((s.dropPayload.setSched .slotStillAllowed).goto .finish)
  | sendFailed (time : Half) : MicroMove s (.sendDone time .fail)
      (((s.emit (.logSendFail time)).dropPayload.setSched .slotStillAllowed).goto .finish)
  | stillEnds (time : Half) (h : slotAllowed s.slots (indexOf (timeArg time)) = false) :
      MicroMove s (.stillGuard time) ((s.setSched .awaitingSlot).goto .finish)
  | pops (b : BuildLocals) (m : Message) (rest : List Message) (h : s.mq = m :: rest) :
      MicroMove s (.buildPop b) ({ s with mq := rest }.goto (.buildTest b m))
  | givesBackFirst (b : BuildLocals) (m : Message) (h : b.maxBatches < neededBatches b.stream m) (hc : b.consumed = 0) :
      MicroMove s (.buildTest b m) ((s.pushFront m).goto (.buildNofit b (neededBatches b.stream m)))
  | givesBack (b : BuildLocals) (m : Message) (h : b.maxBatches < neededBatches b.stream m) (hc : b.consumed ≠ 0) :
      MicroMove s (.buildTest b m) ((s.pushFront m).goto (.buildResult b))
  | stillBuiltNothing (b : BuildLocals) (hc : b.consumed = 0) (ha : b.arm = .still) :
      MicroMove s (.buildResult b) ((s.setSched .awaitingSlot).goto .finish)
  | encoded (arm : Arm) (time : Half) (p : Payload) :
      MicroMove s (.encodeDone arm time (.ok p)) (((s.storePayload p).setSched .dataEncoded).goto .finish)
  | stillEncodeFailed (time : Half) : MicroMove s (.encodeDone .still time .fail)
      (((s.emit (.logEncodeFail .slotStillAllowed time)).setSched .awaitingSlot).goto .finish)
  | ends : MicroMove s .finish s.endTick

/-- The inversion of the micro-step: what it leads to is one of these branches. -/
theorem microStep_cases (pos : TickPos) (s : State) : MicroMove s pos (microStep pos s) := by
  cases pos with
  | t0 wall =>
    cases h : s.cancel <;> simp only [microStep, tickT0, h]
    · exact .goes (.proceeds wall h)
    · exact .goes (.cancelled wall h)
  | t1 wall => exact .timeBase wall
  | t2 time => exact .detector time
  | t3 time ch =>
    cases h : ch && s.obsEn <;> simp only [microStep, tickT3, h]
    · exact .goes (.unobserved time ch h)
    · exact .sends (.notifies time ch h)
  | t4 time =>
    cases h : s.sched <;> simp only [microStep, tickT4, h]
    · exact .goes (.toAwaiting time h)
    · exact .goes (.toSend time h)
    · exact .goes (.toStill time h)
  | awaitNext time => exact .goes (.awaitNext time)
  | awaitQueue time a => exact .goes (.awaitQueue time a)
  | awaitLead time a q =>
    cases h : a && q && leadShort (timeToNext s.slots (timeArg time)) <;> simp only [microStep, tickAwaitLead, h]
    · exact .goes (.awaitUnmet time a q h)
    · exact .goes (.awaitMet time a q h)
  | awaitRun time => exact .goes (.awaitRun time)
  | sendGuard time =>
    cases h : slotAllowed s.slots (indexOf (timeArg time)) <;> simp only [microStep, tickSendGuard, h]
    · exact .goes (.sendWaits time h)
    · exact .goes (.sendAllowed time h)
  | sendCall time => exact .sends (.asksSend time)
  | sendWait time => exact .waits rfl
  | sendDone time a =>
    cases a with
    | ok => exact .sendOk time
    | fail => exact .sendFailed time
  | stillGuard time =>
    cases h : slotAllowed s.slots (indexOf (timeArg time)) <;> simp only [microStep, tickStillGuard, h]
    · exact .stillEnds time h
    · exact .goes (.stillAllowed time h)
  | stillQueue time =>
    cases h : s.queueEmpty <;> simp only [microStep, tickStillQueue, h]
    · exact .goes (.stillFilled time h)
    · exact .goes (.stillEmpty time h)
  | stillRun time => exact .goes (.stillRun time)
  | buildPop b =>
    rcases s.pop_cases with ⟨hq, h⟩ | ⟨m, rest, hq, h⟩ <;> simp only [microStep, tickBuildPop, h]
    · exact .goes (.popEmpty b hq)
    · exact .pops b m rest hq
  | buildTest b m =>
    by_cases hfit : (neededBatches b.stream m : Int) ≤ b.maxBatches
    · simp only [microStep, tickBuildTest, gt_iff_lt, Int.not_lt.mpr hfit, if_false]
      exact .goes (.consumes b m hfit)
    · have hover : b.maxBatches < (neededBatches b.stream m : Int) := Int.not_le.mp hfit
      by_cases hc : b.consumed = 0 <;> simp only [microStep, tickBuildTest, gt_iff_lt, hover, hc, if_true, if_false]
      · exact .givesBackFirst b m hover hc
      · exact .givesBack b m hover hc
  | buildNofit b needed => exact .sends (.logsNofit b needed)
  | buildResult b =>
    by_cases hc : b.consumed = 0
    · cases ha : b.arm <;> simp only [microStep, tickBuildResult, hc, if_true, ha]
      · exact .goes (.builtNothing b hc ha)
      · exact .stillBuiltNothing b hc ha
    · simp only [microStep, tickBuildResult, hc, if_false]
      exact .goes (.built b hc)
  | encodeCall arm time stream => exact .sends (.asksEncode arm time stream)
  | encodeWait arm time => exact .waits rfl
  | encodeDone arm time a =>
    cases a with
    | ok p => exact .encoded arm time p
    | fail =>
      cases arm with
      | awaiting => exact .sends (.logsEncodeFail time)
      | still => exact .stillEncodeFailed time
  | finish => exact .ends

theorem MicroMove.of_eq {pos : TickPos} {s t : State} (h : t = microStep pos s) : MicroMove s pos t :=
  h ▸ microStep_cases pos s

end Sys2Proof.Machine
end

section
/-! The shape and the size of BUILD's stream (42_batchbuilder R171, R172, R176, R179, R180). -/

namespace Sys2Proof.Machine

/-- R171: the run of a whole plan gives at most 224 batches. -/
theorem maxBatches_le (p : Params) {run : Nat} (h : run ≤ 16) : maxBatches p run ≤ 224 := by
  unfold maxBatches; omega

theorem preamble_length (p : Params) : (preamble p).length = 18 := List.length_replicate

theorem streamShape_preamble (p : Params) : StreamShape p (preamble p) := by
  simp [StreamShape, preamble]

/-- The batches of a message, as the facts of `batches_shape` give them. -/
theorem messageBatches_shape (p : Params) (m : Message) :
    (p.wSync :: lay p 1 (paddedPositions p m)).length = 17 * batchesOf m ∧
    ∀ b < batchesOf m, (p.wSync :: lay p 1 (paddedPositions p m))[17 * b]? = some p.wSync := by
  obtain ⟨n, hn⟩ : ∃ n, batchesOf m = n + 1 := Nat.exists_eq_succ_of_ne_zero (by unfold batchesOf; omega)
  obtain ⟨hlen, hsync, -⟩ := batches_shape p n (paddedPositions p m) (by rw [paddedPositions_length, hn])
  rw [hn]
  exact ⟨hlen, hsync⟩

variable {p : Params} {stream : List Word} {m : Message}

/-- R180: a message adds its own batches and nothing else. -/
theorem appendMessage_length (hm : messageOk m = true) (hs : StreamShape p stream) :
    (appendMessage p stream m).length = stream.length + 17 * batchesOf m := by
  obtain ⟨hlen, halign, -, -⟩ := hs
  rw [appendMessage_eq p stream m hm hlen halign, List.length_append, (messageBatches_shape p m).1]

/-- R179 (a) to (c): a SYNC of the new stream is one of the old stream or one of the message's batches. -/
theorem streamShape_appendMessage (hm : messageOk m = true) (hs : StreamShape p stream) :
    StreamShape p (appendMessage p stream m) := by
  have hgrown := appendMessage_length hm hs
  obtain ⟨hlen, halign, hpre, hsync⟩ := hs
  obtain ⟨-, hnew⟩ := messageBatches_shape p m
  rw [appendMessage_eq p stream m hm hlen halign] at hgrown ⊢
  refine ⟨by omega, by omega, by rw [List.take_append_of_le_length hlen, hpre], fun b hb => ?_⟩
  by_cases hold : b < (stream.length - 18) / 17
  · rw [List.getElem?_append_left (by omega)]
    exact hsync b hold
  · rw [List.getElem?_append_right (by omega),
      show 18 + 17 * b - stream.length = 17 * (b - (stream.length - 18) / 17) by omega]
    exact hnew _ (by omega)

theorem currentBatches_appendMessage (hm : messageOk m = true) (hs : StreamShape p stream) :
    currentBatches (appendMessage p stream m) = currentBatches stream + batchesOf m := by
  have hgrown := appendMessage_length hm hs
  obtain ⟨hlen, halign, -, -⟩ := hs
  unfold currentBatches; omega

/-- The estimate of R174 covers what the message takes (R180). -/
theorem batches_le_needed : currentBatches stream + batchesOf m ≤ neededBatches stream m := by
  unfold neededBatches batchesOf; omega

theorem buildOk_start (p : Params) (arm : Arm) (time : Half) {run : Nat} (h : run ≤ 16) :
    BuildOk p (startBuild p arm time run) :=
  ⟨streamShape_preamble p, maxBatches_le p h, fun _ => rfl, fun hc => absurd rfl hc⟩

/-- R176: a message within the estimate is striped in within the capacity. -/
theorem buildOk_consume {b : BuildLocals} (hb : BuildOk p b) (hm : messageOk m = true)
    (hfit : (neededBatches b.stream m : Int) ≤ b.maxBatches) : BuildOk p (consumeMessage p b m) := by
  obtain ⟨hshape, hmax, -, -⟩ := hb
  have hcount := currentBatches_appendMessage hm hshape
  have hcover : currentBatches b.stream + batchesOf m ≤ neededBatches b.stream m := batches_le_needed
  have hone : 1 ≤ batchesOf m := Nat.le_max_left _ _
  refine ⟨streamShape_appendMessage hm hshape, hmax, fun hc => absurd hc (Nat.succ_ne_zero _), fun _ => ?_⟩
  simp only [consumeMessage, hcount]
  omega

/-- R32, R179: the stream of a BUILD that consumed a message is one to 224 batches after the preamble. -/
theorem buildOk_stream_length {b : BuildLocals} (hb : BuildOk p b) (hc : b.consumed ≠ 0) :
    35 ≤ b.stream.length ∧ b.stream.length ≤ 3826 := by
  obtain ⟨⟨hlen, halign, -, -⟩, hmax, -, hcap⟩ := hb
  obtain ⟨hle, hone⟩ := hcap hc
  unfold currentBatches at hle hone
  omega

end Sys2Proof.Machine
end

section
/-! The invariant: what keeps it, micro-step by micro-step and command by command (10_state R26, R31, R32; 43_interfaces R201, R202). -/

namespace Sys2Proof.Machine

variable {s t u : State} {pos next : TickPos} {o : Output}

/-- With no tick, no queue and no payload due, nothing is left to hold (R37). -/
theorem inv_of_idle (hsched : s.sched = .awaitingSlot) (hmq : s.mq = []) (htick : s.tick = none) : s.Inv where
  payload_held h := by simp [hsched] at h
  messages_ok := by simp [hmq]
  depth_kept := by simp [hmq, htick, State.held]
  position_ok := by simp [htick]

/-- The invariant reads five fields only. -/
theorem State.Inv.congr (h : s.Inv) (hparams : t.params = s.params) (hsched : t.sched = s.sched)
    (hvalid : t.payloadValid = s.payloadValid) (hmq : t.mq = s.mq) (htick : t.tick = s.tick) : t.Inv where
  payload_held := by rw [hsched, hvalid]; exact h.payload_held
  messages_ok := by rw [hmq]; exact h.messages_ok
  depth_kept := by rw [hparams, hmq, State.held, htick]; exact h.depth_kept
  position_ok := by rw [hparams, hsched, htick]; exact h.position_ok

theorem State.Inv.out (h : s.Inv) (o : Output) : (s.out o).Inv := h.congr rfl rfl rfl rfl rfl

/-- Ports, turns and the counter of free choices are not the engine's. -/
theorem State.Inv.outside (h : s.Inv) (host tick : List Word) (later : List Turn) (d : Nat) :
    { s with hostPort := host, tickPort := tick, turns := later, draws := d }.Inv := h.congr rfl rfl rfl rfl rfl

/-- Going on to a sound position that holds no message. -/
theorem State.Inv.goto (h : s.Inv) (hok : PosOk s.params s.sched next) (hheld : (s.goto next).held = 0) :
    (s.goto next).Inv where
  payload_held := h.payload_held
  messages_ok := h.messages_ok
  depth_kept depth hd := by
    have := h.depth_kept depth hd
    rw [hheld, State.goto_mq]; omega
  position_ok pos hpos := by cases hpos; exact hok

/-- The end of an arm may write STATE and the payload together. -/
theorem State.Inv.of_finish (h : s.Inv) (hparams : t.params = s.params) (hmq : t.mq = s.mq)
    (htick : t.tick = some .finish) (hpay : t.sched = .dataEncoded → t.payloadValid = true) : t.Inv where
  payload_held := hpay
  messages_ok := by rw [hmq]; exact h.messages_ok
  depth_kept depth hd := by
    have hle := h.depth_kept depth (hparams ▸ hd)
    have hheld : t.held = 0 := by simp [State.held, htick]
    rw [hmq, hheld]; omega
  position_ok pos hpos := by cases htick.symm.trans hpos; trivial

/-- R201, R202: a push that is not refused leaves the depth kept. -/
theorem State.Inv.push {m : Message} (h : s.Inv) (hok : messageOk m = true) (hroom : s.queueFull = false) :
    (s.push m).Inv where
  payload_held := h.payload_held
  messages_ok m' hm' := by
    rcases List.mem_append.mp hm' with hold | hnew
    · exact h.messages_ok m' hold
    · rwa [List.mem_singleton.mp hnew]
  depth_kept depth hd := by
    have hle := h.depth_kept depth hd
    have hne : s.mq.length + s.held ≠ depth := by
      simpa [State.queueFull, show s.params.qdepth = some depth from hd] using hroom
    have hheld : (s.push m).held = s.held := rfl
    rw [State.push_mq, List.length_append, List.length_singleton, hheld]; omega
  position_ok := h.position_ok

/-- R203: the popped message counts as held. -/
theorem State.Inv.pop {b : BuildLocals} {m : Message} {rest : List Message} (h : s.Inv) (hmq : s.mq = m :: rest)
    (hb : BuildOk s.params b) (hsched : s.sched = b.arm.startState) :
    ({ s with mq := rest }.goto (.buildTest b m)).Inv where
  payload_held := h.payload_held
  messages_ok m' hm' := h.messages_ok m' (hmq ▸ List.mem_cons_of_mem m hm')
  depth_kept depth hd := by
    have hle := h.depth_kept depth hd
    rw [hmq, List.length_cons] at hle
    exact Nat.le_trans (Nat.le_add_right _ _) hle
  position_ok pos hpos := by
    cases hpos
    exact ⟨hb, hsched, h.messages_ok m (hmq ▸ List.mem_cons_self)⟩

/-- R204: the message given back takes the place it was counted for. -/
theorem State.Inv.pushFront {b : BuildLocals} {m : Message} (h : s.Inv) (htick : s.tick = some (.buildTest b m))
    (hok : PosOk s.params s.sched next) (hheld : (s.goto next).held = 0) : ((s.pushFront m).goto next).Inv where
  payload_held := h.payload_held
  messages_ok m' hm' := by
    rcases List.mem_cons.mp hm' with rfl | hold
    · exact (h.position_ok _ htick).2.2
    · exact h.messages_ok m' hold
  depth_kept depth hd := by
    have hle := h.depth_kept depth hd
    have hone : s.held = 1 := by simp [State.held, htick]
    have hzero : ((s.pushFront m).goto next).held = 0 := hheld
    rw [hzero, State.goto_mq, State.pushFront_mq, List.length_cons]; omega
  position_ok pos hpos := by cases hpos; exact hok

/-! ### Positions -/

/-- From a sound position a tick goes on to a sound one (R136, R174 to R177). -/
theorem Goes.posOk (h : Goes s pos next) (hok : PosOk s.params s.sched pos) : PosOk s.params s.sched next := by
  cases h with
  | cancelled | proceeds | unobserved | awaitUnmet | sendWaits | stillEmpty | builtNothing => trivial
  | toAwaiting _ hs | toSend _ hs | toStill _ hs => exact hs
  | awaitNext | awaitQueue | awaitMet | sendAllowed | stillAllowed | stillFilled | popEmpty => exact hok
  | awaitRun time | stillRun time => exact ⟨buildOk_start _ _ _ (allowedRun_le _ _), hok⟩
  | consumes b m hfit =>
    obtain ⟨hb, hsched, hm⟩ := hok
    exact ⟨buildOk_consume hb hm hfit, hsched⟩
  | built b hc =>
    obtain ⟨hb, hsched⟩ := hok
    obtain ⟨hlow, hhigh⟩ := buildOk_stream_length hb hc
    exact ⟨hb.1, hlow, hhigh, hsched⟩

theorem Sends.posOk (h : Sends s pos o next) (hok : PosOk s.params s.sched pos) : PosOk s.params s.sched next := by
  cases h with
  | notifies | logsEncodeFail => trivial
  | asksSend => exact hok
  | logsNofit b needed =>
    obtain ⟨hb, hsched, -⟩ := hok
    exact ⟨hb, hsched⟩
  | asksEncode =>
    obtain ⟨-, -, -, hsched⟩ := hok
    exact hsched

theorem Goes.held (h : Goes s pos next) : (s.goto next).held = 0 := by cases h <;> rfl

theorem Sends.held (h : Sends s pos o next) : (s.goto next).held = 0 := by cases h <;> rfl

/-! ### Moves -/

theorem MicroMove.inv (hm : MicroMove s pos t) (h : s.Inv) (htick : s.tick = some pos) : t.Inv := by
  have hok := h.position_ok pos htick
  cases hm with
  | goes hg => exact h.goto (hg.posOk hok) hg.held
  | sends hs => exact (h.out _).goto (hs.posOk hok) hs.held
  | waits => exact h
  | timeBase wall => exact State.Inv.goto (h.congr rfl rfl rfl rfl rfl) trivial rfl
  | detector time => exact State.Inv.goto (h.congr (by simp) (by simp) (by simp) (by simp) (by simp)) trivial rfl
  | sendOk | sendFailed | stillEnds | stillBuiltNothing | encoded | stillEncodeFailed =>
    exact h.of_finish rfl rfl rfl (by simp)
  | pops b m rest hmq =>
    obtain ⟨hb, hsched⟩ := hok
    exact h.pop hmq hb hsched
  | givesBackFirst b m _ hc =>
    obtain ⟨hb, hsched, -⟩ := hok
    exact h.pushFront htick ⟨hb, hsched, hc⟩ rfl
  | givesBack b m =>
    obtain ⟨hb, hsched, -⟩ := hok
    exact h.pushFront htick ⟨hb, hsched⟩ rfl
  | ends =>
    exact ⟨h.payload_held, h.messages_ok, fun depth hd => Nat.le_trans (Nat.le_add_right _ _) (h.depth_kept depth hd),
      nofun⟩

theorem HostWrite.inv {i : Instr} (hw : HostWrite s i u) (h : s.Inv) : u.Inv := by
  cases hw with
  | pushed msg hok hroom => exact h.push hok hroom
  | detector time => exact h.congr (by simp) (by simp) (by simp) (by simp) (by simp)
  | nothing | plan | correction | cancelled | observer => exact h.congr rfl rfl rfl rfl rfl

/-- Settles O47: at reset the engine is idle. -/
theorem resetMeetsTheInvariant : Obligations.ResetMeetsTheInvariant := inv_of_idle rfl rfl rfl

/-- Settles O48: by the moves of a step; a micro-step and a host command by the branches of their own inversions. -/
theorem everyStepKeepsTheInvariant : Obligations.EveryStepKeepsTheInvariant := by
  intro s t h hstep
  cases step_cases hstep with
  | hostCommand later d i rest hd he =>
    obtain ⟨u, w, hw, rfl⟩ := hostCommand_next hd he
    exact (hw.inv (h.outside rest s.tickPort later d)).out _
  | hostIllegal later d why rest _ ht => exact ht ▸ (h.outside rest s.tickPort later d).out _
  | tickCommand later d i rest hn hd he =>
    obtain ⟨wall, -, rfl⟩ := tickCommand_next hn hd he
    exact (h.outside s.hostPort rest later d).goto trivial rfl
  | tickIllegal later d why rest _ _ ht => exact ht ▸ (h.outside s.hostPort rest later d).out _
  | micro later d pos hp ht =>
    exact (MicroMove.of_eq ht).inv (h.outside s.hostPort s.tickPort later d) hp
  | encodeAnswer later arm time a hp ht =>
    have hok : s.sched = arm.startState := h.position_ok _ hp
    exact ht ▸ ((h.outside s.hostPort s.tickPort later s.draws).out _).goto hok rfl
  | sendAnswer later time a hp ht =>
    have hok : s.sched = .dataEncoded := h.position_ok _ hp
    exact ht ▸ ((h.outside s.hostPort s.tickPort later s.draws).out _).goto hok rfl
  | reset later _ ht => exact ht ▸ inv_of_idle rfl rfl rfl
  | idle later d ht => exact ht ▸ h.outside s.hostPort s.tickPort later d

end Sys2Proof.Machine
end

section
/-! The history of the payload and of the Transmitter's requests (10_state R26; 41_scheduler R143, R144, R146, R149; 43_interfaces R206, R207). -/

namespace Sys2Proof.Machine

/-! ### The last encoded payload not yet sent, as the trace grows -/

section
variable (trace : List Output)

@[simp] theorem lastUnsent_response (p : Port) (w : Word) :
    lastUnsent (trace ++ [.response p w]) = lastUnsent trace := by simp [lastUnsent]
@[simp] theorem lastUnsent_event (ev : Word) : lastUnsent (trace ++ [.event ev]) = lastUnsent trace := by simp [lastUnsent]
@[simp] theorem lastUnsent_encode (stream : List Word) :
    lastUnsent (trace ++ [.request (.encode stream)]) = lastUnsent trace := by simp [lastUnsent]
@[simp] theorem lastUnsent_send (p : Payload) : lastUnsent (trace ++ [.request (.send p)]) = none := by simp [lastUnsent]
@[simp] theorem lastUnsent_encodeOk (p : Payload) : lastUnsent (trace ++ [.encodeAnswer (.ok p)]) = some p := by
  simp [lastUnsent]
@[simp] theorem lastUnsent_encodeFail : lastUnsent (trace ++ [.encodeAnswer .fail]) = lastUnsent trace := by
  simp [lastUnsent]
@[simp] theorem lastUnsent_sendAnswer (a : SendAnswer) :
    lastUnsent (trace ++ [.sendAnswer a]) = lastUnsent trace := by simp [lastUnsent]

end

variable {s t u : State} {pos next : TickPos} {o : Output} {i : Instr}

/-! ### What the engine holds for sending, as it moves -/

/-- The arms with a BUILD are those with nothing to send. -/
@[simp] theorem Arm.startState_ne_dataEncoded (arm : Arm) : arm.startState ≠ .dataEncoded := by
  cases arm <;> simp [Arm.startState]

theorem State.unsent_congr (htick : t.tick = s.tick) (hsched : t.sched = s.sched) (hpay : t.payload = s.payload) :
    t.unsent = s.unsent := by
  simp only [State.unsent, htick, hsched, hpay]

theorem HostWrite.unsent (hw : HostWrite s i u) : u.unsent = s.unsent := by
  obtain ⟨-, -, hsched, hpay, -, htick, -⟩ := hw.keeps
  exact State.unsent_congr htick hsched hpay

theorem Goes.unsent (h : Goes s pos next) (htick : s.tick = some pos) : (s.goto next).unsent = s.unsent := by
  cases h <;> simp only [State.unsent, htick] <;> rfl

/-- A micro-step keeps the account: only the SEND request spends the payload, and only an encode's outcome stores it. -/
theorem MicroMove.unsent (hm : MicroMove s pos t) (h : s.Inv) (htick : s.tick = some pos)
    (hu : lastUnsent s.trace = s.unsent) : lastUnsent t.trace = t.unsent := by
  have hok := h.position_ok pos htick
  cases hm with
  | goes hg => rw [hg.unsent htick]; exact hu
  | sends hs =>
    cases hs with
    | asksSend => simp [State.unsent]
    | notifies | logsNofit | asksEncode | logsEncodeFail =>
      simp [hu, State.unsent, htick]
      rfl
  | sendOk | sendFailed => simp [hu, State.unsent, htick]
  | stillEnds | stillEncodeFailed => simp [hu, State.unsent, htick, show s.sched = .slotStillAllowed from hok]
  | stillBuiltNothing b =>
    obtain ⟨-, hsched⟩ := hok
    simp [hu, State.unsent, htick, hsched]
  | encoded => simp [hu, State.unsent, htick]
  | waits => exact hu
  | timeBase | detector | pops | givesBackFirst | givesBack | ends => simp [hu, State.unsent, htick] <;> rfl

/-! ### Which steps send a request -/

theorem MicroMove.request {r : XmitRequest} (hm : MicroMove s pos t) (ht : t.trace = s.trace ++ [.request r]) :
    (∃ time, pos = .sendCall time ∧ r = .send s.payload) ∨
    ∃ arm time stream, pos = .encodeCall arm time stream ∧ r = .encode stream := by
  cases hm with
  | @sends _ _ o hs =>
    have ho : o = .request r := List.singleton_inj.mp (List.append_cancel_left ht)
    cases hs with
    | asksSend time => exact .inl ⟨time, rfl, (Output.request.inj ho).symm⟩
    | asksEncode arm time stream => exact .inr ⟨arm, time, stream, rfl, (Output.request.inj ho).symm⟩
    | notifies | logsNofit | logsEncodeFail => cases ho
  | _ => simp at ht

/-- A Transmitter request goes out only from the two positions that ask for it (R97, R142, R144, R145). -/
theorem step_request {r : XmitRequest} (hstep : step s = .next t) (ht : t.trace = s.trace ++ [.request r]) :
    (∃ time, s.tick = some (.sendCall time) ∧ r = .send s.payload) ∨
    ∃ arm time stream, s.tick = some (.encodeCall arm time stream) ∧ r = .encode stream := by
  cases step_cases hstep with
  | hostCommand later d i rest hd he =>
    obtain ⟨u, w, hw, rfl⟩ := hostCommand_next hd he
    simp [hw.trace] at ht
  | tickCommand later d i rest hn hd he =>
    obtain ⟨wall, -, rfl⟩ := tickCommand_next hn hd he
    simp at ht
  | micro later d pos hp hmicro =>
    simpa [hp] using (MicroMove.of_eq hmicro).request ht
  | hostIllegal _ _ _ _ _ hmove | tickIllegal _ _ _ _ _ _ hmove | idle _ _ hmove | encodeAnswer _ _ _ _ _ hmove
  | sendAnswer _ _ _ _ hmove | reset _ _ hmove =>
    simp [hmove, tickEncodeAnswer, tickSendAnswer, State.afterReset, State.reset] at ht

/-! ### The statements -/

/-- Settles O49: the stream is the one at the position that asks for the ENCODE, where the invariant vouches for it. -/
theorem everyEncodedStreamIsWellShaped : Obligations.EveryEncodedStreamIsWellShaped := by
  intro s t stream h hstep ht
  rcases step_request hstep ht with ⟨time, -, hr⟩ | ⟨arm, time, stream', htick, hr⟩
  · cases hr
  · cases hr
    obtain ⟨hshape, hlow, hhigh, -⟩ := h.position_ok _ htick
    exact ⟨hshape, hlow, hhigh⟩

/-- The account of the last encoded payload is kept by every step (R149 c). -/
theorem step_unsent (h : s.Inv) (hu : lastUnsent s.trace = s.unsent) (hstep : step s = .next t) :
    lastUnsent t.trace = t.unsent := by
  cases step_cases hstep with
  | hostCommand later d i rest hd he =>
    obtain ⟨u, w, hw, rfl⟩ := hostCommand_next hd he
    rw [State.out_trace, lastUnsent_response, hw.trace]
    exact hu.trans hw.unsent.symm
  | tickCommand later d i rest hn hd he =>
    obtain ⟨wall, -, rfl⟩ := tickCommand_next hn hd he
    simp [hu, State.unsent, hn]
  | micro later d pos hp ht =>
    exact (MicroMove.of_eq ht).unsent (h.outside s.hostPort s.tickPort later d) hp hu
  | encodeAnswer later arm time a hp ht =>
    have hsched : s.sched = arm.startState := h.position_ok _ hp
    cases a <;> simp [ht, tickEncodeAnswer, hu, State.unsent, hp, hsched]
  | sendAnswer later time a hp ht => simp [ht, tickSendAnswer, hu, State.unsent, hp]
  | hostIllegal _ _ _ _ _ ht | tickIllegal _ _ _ _ _ _ ht => simp [ht, hu, State.unsent]
  | reset _ _ ht => subst ht; rfl
  | idle _ _ ht => simp [ht, hu, State.unsent]

/-- Settles O52: the account is kept, and the one position that asks for a SEND does so with the payload it accounts for. -/
theorem everySendCarriesTheLastEncodedPayloadOnce : Obligations.EverySendCarriesTheLastEncodedPayloadOnce := by
  refine ⟨rfl, fun s t h hu hstep => ⟨step_unsent h hu hstep, fun p ht => ?_⟩⟩
  rcases step_request hstep ht with ⟨time, htick, hr⟩ | ⟨arm, time, stream, -, hr⟩
  · cases hr
    have hsched : s.sched = .dataEncoded := h.position_ok _ htick
    exact ⟨by simp [hu, State.unsent, htick, hsched], by rw [ht, lastUnsent_send]⟩
  · cases hr

end Sys2Proof.Machine
end

section
/-! After CANCEL (10_state R28; 41_scheduler R132, R153). -/

namespace Sys2Proof.Machine

variable {s t u : State} {pos : TickPos} {i : Instr}

/-- The silenced condition, position by position. -/
theorem silenced_iff : s.Silenced ↔
    s.cancel = true ∧ ∀ pos, s.tick = some pos → (∃ wall, pos = .t0 wall) ∨ pos = .finish := by
  refine and_congr_right fun _ => ?_
  cases s.tick with
  | none => simp
  | some pos => cases pos <;> simp

/-- CANCEL is never cleared by a command (R28). -/
theorem HostWrite.cancel (hw : HostWrite s i u) (h : s.cancel = true) : u.cancel = true := by
  cases hw <;> simp [h]

/-- A silenced tick goes to its end, or ends with its answer (R132). -/
theorem MicroMove.silenced (hm : MicroMove s pos t) (hc : s.cancel = true)
    (hpos : (∃ wall, pos = .t0 wall) ∨ pos = .finish) : t = s.goto .finish ∨ t = s.endTick := by
  rcases hpos with ⟨wall, rfl⟩ | rfl
  · cases hm with
    | goes hg =>
      cases hg with
      | cancelled => exact .inl rfl
      | proceeds _ h => rw [hc] at h; cases h
    | sends hs => cases hs
    | waits hw => cases hw
  · cases hm with
    | ends => exact .inr rfl
    | goes hg => cases hg
    | sends hs => cases hs
    | waits hw => cases hw

/-- Settles O53: commands write neither the tick nor the engine's registers, and the tick's two positions lead to its end. -/
theorem nothingIsSentAfterCancel : Obligations.NothingIsSentAfterCancel := by
  intro s t h hstep hreset
  obtain ⟨hc, hpos⟩ := silenced_iff.mp h
  rw [silenced_iff]
  cases step_cases hstep with
  | hostCommand later d i rest hd he =>
    obtain ⟨u, w, hw, rfl⟩ := hostCommand_next hd he
    obtain ⟨-, htime, hsched, hpay, hvalid, htick, -⟩ := hw.keeps
    refine ⟨⟨hw.cancel hc, by simpa [htick] using hpos⟩, htime, hsched, hpay, hvalid, _,
      congrArg (· ++ _) hw.trace, by simp⟩
  | tickCommand later d i rest hn hd he =>
    obtain ⟨wall, -, rfl⟩ := tickCommand_next hn hd he
    simp [hc]
  | micro later d pos hp ht =>
    rcases (MicroMove.of_eq ht).silenced hc (hpos pos hp) with rfl | rfl <;> simp [hc]
  | encodeAnswer _ _ _ _ hp | sendAnswer _ _ _ hp => simpa using hpos _ hp
  | reset later hturns => simp [hturns] at hreset
  | hostIllegal _ _ _ _ _ ht | tickIllegal _ _ _ _ _ _ ht | idle _ _ ht => simpa [ht, hc] using hpos

end Sys2Proof.Machine
end

section
/-! Which step writes which register (10_state R21 to R34; 20_memory R52). -/

namespace Sys2Proof.Machine

/-- Settles O54: each branch of a host command and of a micro-step shows what it writes; the other moves write no register. -/
theorem registersAreWrittenOnlyByTheirWriters : Obligations.RegistersAreWrittenOnlyByTheirWriters := by
  intro s t hstep hreset
  cases step_cases hstep with
  | hostCommand later d i rest hd he =>
    obtain ⟨u, w, hw, rfl⟩ := hostCommand_next hd he
    cases hw <;> simp +contextual [hd, State.tickBusy, State.observe_remembers]
  | tickCommand later d i rest hn hd he =>
    obtain ⟨wall, rfl, rfl⟩ := tickCommand_next hn hd he
    simp +contextual [hd]
  | micro later d pos hp ht =>
    cases MicroMove.of_eq ht with
    | pops b m rest hmq =>
      have hhead : s.mq = m :: rest := hmq
      simp +contextual [State.tickBusy, hp, hhead]
    | _ => simp +contextual [State.tickBusy, hp, State.observe_remembers]
  | encodeAnswer _ _ _ _ hp ht => simp +contextual [ht, tickEncodeAnswer, State.tickBusy, hp]
  | sendAnswer _ _ _ hp ht => simp +contextual [ht, tickSendAnswer, State.tickBusy, hp]
  | reset later hturns => simp [hturns] at hreset
  | hostIllegal _ _ _ _ _ ht | tickIllegal _ _ _ _ _ _ ht | idle _ _ ht => simp +contextual [ht, State.tickBusy]

end Sys2Proof.Machine
end

section
/-! The queue between BUILD's pop and its push back (20_memory R52; 43_interfaces R202 to R204). -/

namespace Sys2Proof.Machine

variable {s : State} {b : BuildLocals} {m : Message}

/-- The tick engine's turn, with a tick in progress, is that tick's micro-step (R130). -/
theorem takeTurn_tick_of_position {pos : TickPos} (h : s.tick = some pos) :
    takeTurn .tick s = .next (microStep pos s) := by
  simp only [takeTurn, tickMove, h]

/-- R203: BUILD's pop takes the head. -/
theorem microStep_buildPop_of_cons {rest : List Message} (h : s.mq = m :: rest) :
    microStep (.buildPop b) s = { s with mq := rest }.goto (.buildTest b m) := by
  simp only [microStep, tickBuildPop, State.pop, h]

/-- R175, R204: a message that does not fit is put back in front, whether or not BUILD consumed one before it. -/
theorem microStep_buildTest_mq_of_unfit (h : b.maxBatches < (neededBatches b.stream m : Int)) :
    (microStep (.buildTest b m) s).mq = m :: s.mq := by
  have hm := microStep_cases (.buildTest b m) s
  generalize microStep (.buildTest b m) s = t at hm ⊢
  cases hm with
  | goes hg =>
    cases hg with
    | consumes _ _ hfit => exact absurd hfit (Int.not_le.mpr h)
  | sends hs => cases hs
  | waits hw => cases hw
  | givesBackFirst | givesBack => rfl

/-- R201: an unbounded queue is never full. -/
theorem queueFull_of_unbounded (h : s.params.qdepth = none) : s.queueFull = false := by
  simp only [State.queueFull, h]

/-- R202: a push that is not refused, as one equation. -/
theorem exec_qpush_of_room (hok : messageOk m = true) (hroom : s.queueFull = false) :
    exec (.qpush m) s = .next ((s.push m).respond .host .ok 0) := by
  simp [exec, execQpush, hok, hroom]

/-- Settles O35: the push leaves the tick at the position that holds the popped message, and that position puts it in front. -/
theorem requeueKeepsTheOrder : Obligations.RequeueKeepsTheOrder := by
  intro s b m rest pushed htick hmq hunfit hok hdepth
  have hpop : takeTurn .tick s = .next ({ s with mq := rest }.goto (.buildTest b m)) := by
    rw [takeTurn_tick_of_position htick, microStep_buildPop_of_cons hmq]
  exact ⟨_, _, _, hpop, exec_qpush_of_room hok (queueFull_of_unbounded hdepth), takeTurn_tick_of_position rfl,
    rfl, rfl, microStep_buildTest_mq_of_unfit hunfit⟩

end Sys2Proof.Machine
end

section
/-! What striping leaves in front and what it puts at the payload positions (20_memory R53, R55; 42_batchbuilder R176, R179). -/

namespace Sys2Proof.Machine

variable {p : Params} {stream : List Word} {m : Message}

/-- R176, for a stream of the right shape: the old stream, then the message's own batches. -/
theorem appendMessage_of_shape (hm : messageOk m = true) (hs : StreamShape p stream) :
    appendMessage p stream m = stream ++ p.wSync :: lay p 1 (paddedPositions p m) := by
  obtain ⟨hlen, halign, -, -⟩ := hs
  exact appendMessage_eq p stream m hm hlen halign

/-- R179 (e): the payload positions of a message's batches hold its padded positions. -/
theorem payloadPositions_messageBatches (p : Params) (m : Message) :
    payloadPositions (p.wSync :: lay p 1 (paddedPositions p m)) (batchesOf m) = paddedPositions p m := by
  obtain ⟨n, hn⟩ : ∃ n, batchesOf m = n + 1 := Nat.exists_eq_succ_of_ne_zero (by unfold batchesOf; omega)
  obtain ⟨-, -, hpos⟩ := batches_shape p n (paddedPositions p m) (by rw [paddedPositions_length, hn])
  rw [hn, hpos]

/-- Settles O38: the shape is kept, and only the message's batches are appended. -/
theorem stripingKeepsTheShape : Obligations.StripingKeepsTheShape := by
  intro p stream m hm hs
  refine ⟨streamShape_appendMessage hm hs, ?_⟩
  rw [appendMessage_of_shape hm hs]
  exact List.prefix_append _ _

/-- Settles O39: past the old stream stand the message's batches, whose payload positions are its padded positions. -/
theorem payloadStandsAtItsFrame : Obligations.PayloadStandsAtItsFrame := by
  intro p stream f payload hf hs
  have hm : messageOk (f :: payload) = true := decide_eq_true hf
  refine ⟨16 * batchesOf (f :: payload) - positionsOf (f :: payload), ?_⟩
  rw [appendMessage_of_shape hm hs, List.drop_left]
  exact payloadPositions_messageBatches p (f :: payload)

end Sys2Proof.Machine
end

section
/-! The decoder, said once: which first words are headers, the opcode table as those headers, what a header takes, and what the wire format gives back (30_encoding R81 to R85, R93, R95). -/

namespace Sys2Proof.Machine

variable {p : Port} {w : Word} {o : Op} {rest : List Word}

/-! ### Headers -/

/-- The word passes R84's steps 1 to 4 on this port, as a header of this row. -/
structure Header (p : Port) (w : Word) (o : Op) : Prop where
  rsv : w.rsv = 0
  opc : Op.ofCode w.opc = some o
  port : o.port = p
  arg : o.argLegal w.arg = true

/-- R84 step 5: a header takes its operand words, once they are there. -/
theorem Header.decode_eq (h : Header p w o) (rest : List Word) : decode p (w :: rest) =
    if rest.length < o.operandWords w.arg then .incomplete
    else .command (assemble o w.arg (rest.take (o.operandWords w.arg))) (rest.drop (o.operandWords w.arg)) := by
  obtain ⟨hrsv, hopc, hport, harg⟩ := h
  simp [decode, hrsv, hopc, hport, harg]

/-- R84 steps 1 to 4, R85: a word that is no header is refused, and it alone is consumed. -/
theorem decode_of_no_header (h : ∀ o, ¬ Header p w o) (rest : List Word) :
    ∃ why, decode p (w :: rest) = .illegal why rest := by
  by_cases hrsv : w.rsv = 0
  · cases hopc : Op.ofCode w.opc with
    | none => exact ⟨.unassigned, by simp [decode, hrsv, hopc]⟩
    | some o =>
      by_cases hport : o.port = p
      · have harg : o.argLegal w.arg = false := Bool.eq_false_iff.mpr fun harg => h o ⟨hrsv, hopc, hport, harg⟩
        exact ⟨.argument, by simp [decode, hrsv, hopc, hport, harg]⟩
      · exact ⟨.wrongPort, by simp [decode, hrsv, hopc, hport]⟩
  · exact ⟨.reserved, if_pos hrsv⟩

theorem Header.decode_ne_illegal (h : Header p w o) (why : Illegal) (left : List Word) :
    decode p (w :: rest) ≠ .illegal why left := by
  rw [h.decode_eq]
  split <;> exact Decoded.noConfusion

/-- R84: a command comes from a header, the operand words after it, and what is left. -/
theorem decode_command_inv {ws : List Word} {i : Instr} (hd : decode p ws = .command i rest) :
    ∃ w o ops, ws = w :: (ops ++ rest) ∧ Header p w o ∧ ops.length = o.operandWords w.arg ∧
      i = assemble o w.arg ops := by
  cases ws with
  | nil => cases hd
  | cons w tl =>
    by_cases h : ∃ o, Header p w o
    · obtain ⟨o, h⟩ := h
      rw [h.decode_eq] at hd
      split at hd
      · cases hd
      · rename_i hlen
        cases hd
        exact ⟨w, o, tl.take (o.operandWords w.arg), by rw [List.take_append_drop], h,
          List.length_take_of_le (Nat.not_lt.mp hlen), rfl⟩
    · obtain ⟨why, hill⟩ := decode_of_no_header (not_exists.mp h) tl
      rw [hill] at hd
      cases hd

/-! ### The opcode table -/

/-- The bits of ARG that R84 step 4 wants zero. -/
def argMask : Op → Half
  | .gettime | .cancel | .qempty => BitVec.allOnes 16
  | .setobserver => BitVec.allOnes 15 ++ 0#1
  | .setslots | .isallowed | .allowedrun | .indexof | .isnextallowed | .timetonext | .haschanged
  | .tick | .correcttime | .qpush => 0

/-- The row of the opcode table that stands for an opcode: all of OPC and RSV compared, and the bits of ARG that are to be zero. -/
def tableRow (o : Op) : TableRow := ⟨commandWord o 0, (0xFF : Byte) ++ (0xFF : Byte) ++ argMask o, o.port⟩

theorem tableRows_eq : tableRows = Op.all.map tableRow := by decide

theorem mem_opAll (o : Op) : o ∈ Op.all := by cases o <;> decide

theorem argLegal_setobserver_iff (arg : Half) :
    arg.extractLsb' 1 15 = 0 ↔ arg &&& (BitVec.allOnes 15 ++ 0#1) = 0 := by
  have hsplit : arg.extractLsb' 1 15 ++ arg.extractLsb' 0 1 = arg := by
    rw [BitVec.extractLsb'_append_extractLsb'_eq_extractLsb' (by rfl), BitVec.extractLsb'_eq_self]
  have hand : arg &&& (BitVec.allOnes 15 ++ 0#1) = arg.extractLsb' 1 15 ++ 0#1 := by
    calc arg &&& (BitVec.allOnes 15 ++ 0#1)
        = (arg.extractLsb' 1 15 ++ arg.extractLsb' 0 1) &&& (BitVec.allOnes 15 ++ 0#1) := by rw [hsplit]
      _ = arg.extractLsb' 1 15 ++ 0#1 := by rw [BitVec.and_append, BitVec.and_allOnes, BitVec.and_zero]
  rw [hand]
  exact (BitVec.append_left_inj (s₂ := 0#15) 0#1).symm

/-- R84 step 4: an ARG is legal when the bits its row compares are zero. -/
theorem argLegal_iff (o : Op) (arg : Half) : o.argLegal arg = true ↔ arg &&& argMask o = 0 := by
  cases o with
  | setobserver => exact beq_iff_eq.trans (argLegal_setobserver_iff arg)
  | gettime | cancel | qempty => rw [argMask, BitVec.and_allOnes]; exact beq_iff_eq
  | _ => exact iff_of_true rfl BitVec.and_zero

/-- A word is its three fields (R81). -/
theorem word_eq_iff (v w : Word) : v = w ↔ v.opc = w.opc ∧ v.rsv = w.rsv ∧ v.arg = w.arg := by
  have hval (u : Word) : u.toNat = u.opc.toNat * 16777216 + u.rsv.toNat * 65536 + u.arg.toNat := by
    rw [opc_toNat, rsv_toNat, arg_toNat]; omega
  constructor
  · rintro rfl
    exact ⟨rfl, rfl, rfl⟩
  · rintro ⟨hopc, hrsv, harg⟩
    exact BitVec.eq_of_toNat_eq (by rw [hval v, hval w, hopc, hrsv, harg])

theorem opc_and (v w : Word) : Word.opc (v &&& w) = v.opc &&& w.opc := BitVec.extractLsb'_and
theorem rsv_and (v w : Word) : Word.rsv (v &&& w) = v.rsv &&& w.rsv := BitVec.extractLsb'_and
theorem arg_and (v w : Word) : Word.arg (v &&& w) = v.arg &&& w.arg := BitVec.extractLsb'_and

theorem rowMask_fields (o : Op) : (tableRow o).mask.opc = BitVec.allOnes 8 ∧ (tableRow o).mask.rsv = BitVec.allOnes 8 ∧
    (tableRow o).mask.arg = argMask o := by
  cases o <;> decide

/-- R84: a word matches a row under its mask when its OPC is the row's, RSV is zero and ARG is legal. -/
theorem row_matches_iff (w : Word) (o : Op) :
    w &&& (tableRow o).mask = (tableRow o).value ↔ w.opc = o.code ∧ w.rsv = 0 ∧ o.argLegal w.arg = true := by
  obtain ⟨hopc, hrsv, harg⟩ := rowMask_fields o
  rw [word_eq_iff, opc_and, rsv_and, arg_and, hopc, hrsv, harg, BitVec.and_allOnes, BitVec.and_allOnes,
    argLegal_iff, tableRow, commandWord_opc, commandWord_rsv, commandWord_arg]

theorem ofCode_eq_some_iff {b : Byte} : Op.ofCode b = some o ↔ b = o.code :=
  ⟨fun h => (code_of_ofCode h).symm, fun h => h ▸ ofCode_code o⟩

theorem header_iff : Header p w o ↔ (tableRow o).port = p ∧ w &&& (tableRow o).mask = (tableRow o).value := by
  rw [row_matches_iff]
  constructor
  · rintro ⟨hrsv, hopc, hport, harg⟩
    exact ⟨hport, ofCode_eq_some_iff.mp hopc, hrsv, harg⟩
  · rintro ⟨hport, hopc, hrsv, harg⟩
    exact ⟨hrsv, ofCode_eq_some_iff.mpr hopc, hport, harg⟩

/-- The words the table selects for a port are its headers (R84). -/
theorem inTable_iff : InTable p w ↔ ∃ o, Header p w o := by
  simp only [InTable, tableRows_eq, List.mem_map, header_iff]
  constructor
  · rintro ⟨_, ⟨o, -, rfl⟩, h⟩
    exact ⟨o, h⟩
  · rintro ⟨o, h⟩
    exact ⟨_, ⟨o, mem_opAll o, rfl⟩, h⟩

/-- R84, R85: a word outside the table is refused, and it alone is consumed. -/
theorem decode_of_not_inTable (h : ¬ InTable p w) (rest : List Word) :
    ∃ why, decode p (w :: rest) = .illegal why rest :=
  decode_of_no_header (fun o ho => h (inTable_iff.mpr ⟨o, ho⟩)) rest

theorem inTable_decode_ne_illegal (h : InTable p w) (why : Illegal) (left : List Word) :
    decode p (w :: rest) ≠ .illegal why left := by
  obtain ⟨o, ho⟩ := inTable_iff.mp h
  exact ho.decode_ne_illegal why left

/-- Settles O3: the words of the table are the headers, and what is no header is refused alone. -/
theorem illegalExactlyOutsideTheTable : Obligations.IllegalExactlyOutsideTheTable := by
  intro p w rest
  by_cases h : InTable p w
  · have hne := inTable_decode_ne_illegal (rest := rest) h
    exact ⟨iff_of_false (not_not_intro h) fun ⟨why, hill⟩ => hne why rest hill,
      fun why left hill => absurd hill (hne why left)⟩
  · obtain ⟨why, hill⟩ := decode_of_not_inTable h rest
    refine ⟨iff_of_true h ⟨why, hill⟩, fun why' left hill' => ?_⟩
    rw [hill] at hill'
    cases hill'
    rfl

end Sys2Proof.Machine
end

section
/-! The words of a command: what an encoded command's words spell, and what a header's words spell (30_encoding R81 to R84, R93, R95). -/

namespace Sys2Proof.Machine

variable {p : Port} {w : Word} {o : Op} {rest : List Word} {arg : Half} {ops : List Word}

/-- R81, R82: the header of a command, from its law per constructor. -/
theorem header_law (i : Instr) : Laws.Header.Statement i := by
  cases i with
  | setslots chars => exact Laws.Header.setslots chars
  | isallowed slot => exact Laws.Header.isallowed slot
  | allowedrun slot => exact Laws.Header.allowedrun slot
  | indexof time => exact Laws.Header.indexof time
  | isnextallowed time => exact Laws.Header.isnextallowed time
  | timetonext time => exact Laws.Header.timetonext time
  | haschanged time => exact Laws.Header.haschanged time
  | tick wall => exact Laws.Header.tick wall
  | gettime => exact Laws.Header.gettime
  | correcttime delta => exact Laws.Header.correcttime delta
  | cancel => exact Laws.Header.cancel
  | setobserver enable => exact Laws.Header.setobserver enable
  | qpush msg => exact Laws.Header.qpush msg
  | qempty => exact Laws.Header.qempty

/-- The first word of an encoded command is a header of its row on its port. -/
theorem header_commandWord (i : Instr) : Header i.port (commandWord i.op i.arg) i.op := by
  obtain ⟨w, hw, hrsv, hopc, harg, -⟩ := header_law i
  obtain rfl : commandWord i.op i.arg = w := (List.cons.inj hw).1
  exact ⟨hrsv, hopc, rfl, harg⟩

/-- A well-formed command's header counts its operand words (R82). -/
theorem operands_length {i : Instr} (hi : i.WellFormed) : i.operands.length = i.op.operandWords i.arg := by
  obtain ⟨w, hw, -, -, -, hlen⟩ := header_law i
  obtain rfl : commandWord i.op i.arg = w := (List.cons.inj hw).1
  rw [hlen hi, commandWord_arg]

/-- A well-formed command is what its own row, ARG and operand words spell (R83, R88, R93, R95). -/
theorem assemble_own {i : Instr} (hi : i.WellFormed) : assemble i.op i.arg i.operands = i := by
  cases i with
  | setslots chars =>
    have hlen : (BitVec.ofNat 16 chars.length).toNat = chars.length := Laws.Header.len_toNat hi
    simp only [assemble, Instr.op, Instr.arg, Instr.operands, hlen, unpack_pack]
  | setobserver enable => cases enable <;> rfl
  | _ => rfl

/-- Settles O1: the first word is the command's header, which takes just the operand words, and they spell the command. -/
theorem decodeInvertsEncode : Obligations.DecodeInvertsEncode := by
  intro i rest hi
  have hlen := operands_length hi
  have hnot : ¬ (i.operands ++ rest).length < i.op.operandWords i.arg := by
    rw [List.length_append]; omega
  rw [encode, List.cons_append, (header_commandWord i).decode_eq, commandWord_arg, if_neg hnot, ← hlen, List.take_left,
    List.drop_left, assemble_own hi]

/-- Settles O2: each list of words is decoded as it stands. -/
theorem writtenOutWordsDecode : Obligations.WrittenOutWordsDecode := by
  unfold Obligations.WrittenOutWordsDecode
  decide

/-! ### What a header's words spell -/

theorem assemble_op (o : Op) (arg : Half) (ops : List Word) : (assemble o arg ops).op = o := by
  cases o <;> rfl

/-- A SETSLOTS has as many characters as its LEN, once its operand words are there (R93). -/
theorem unpackChars_length_of_words (hlen : ops.length = Op.setslots.operandWords arg) :
    (unpackChars arg.toNat ops).length = arg.toNat := by
  have hwords : ops.length = (arg.toNat + 3) / 4 := hlen
  rw [unpackChars_length]; omega

theorem assemble_wellFormed (hlen : ops.length = o.operandWords arg) : (assemble o arg ops).WellFormed := by
  have harg : arg.toNat ≤ maxLen := Nat.le_of_lt_succ arg.isLt
  cases o with
  | setslots => exact Nat.le_trans (Nat.le_of_eq (unpackChars_length_of_words hlen)) harg
  | qpush => exact Nat.le_trans (Nat.le_of_eq hlen) harg
  | _ => trivial

/-- A legal ARG of SETOBSERVER is 0 or 1 (R84 step 4). -/
theorem eq_zero_or_one_of_setobserver_argLegal (harg : Op.setobserver.argLegal arg = true) : arg = 0 ∨ arg = 1 := by
  have hhigh : arg.toNat / 2 % 2 ^ 15 = 0 := by
    simpa [BitVec.extractLsb'_toNat, Nat.shiftRight_eq_div_pow] using congrArg BitVec.toNat (beq_iff_eq.mp harg)
  bv_omega

theorem assemble_arg (harg : o.argLegal arg = true) (hlen : ops.length = o.operandWords arg) :
    (assemble o arg ops).arg = arg := by
  cases o with
  | setslots =>
    rw [assemble, Instr.arg, unpackChars_length_of_words hlen, BitVec.ofNat_toNat, BitVec.setWidth_eq]
  | qpush =>
    have hwords : ops.length = arg.toNat := hlen
    rw [assemble, Instr.arg, hwords, BitVec.ofNat_toNat, BitVec.setWidth_eq]
  | gettime | cancel | qempty => exact (beq_iff_eq.mp harg).symm
  | setobserver => rcases eq_zero_or_one_of_setobserver_argLegal harg with rfl | rfl <;> rfl
  | _ => rfl

/-- The operand words are the list of a QPUSH, the packed characters of a SETSLOTS, and none for the other commands (R93, R95). -/
theorem assemble_operands (hlen : ops.length = o.operandWords arg) :
    (∀ msg, assemble o arg ops = .qpush msg → ops = msg) ∧
    (∀ chars, assemble o arg ops = .setslots chars → unpackChars chars.length ops = chars) ∧
    (o ≠ .qpush → o ≠ .setslots → ops = []) := by
  cases o with
  | setslots =>
    refine ⟨nofun, fun chars h => ?_, fun _ h => absurd rfl h⟩
    obtain rfl := Instr.setslots.inj h
    rw [unpackChars_length_of_words hlen]
  | qpush => exact ⟨fun msg h => Instr.qpush.inj h, nofun, fun h => absurd rfl h⟩
  | _ => exact ⟨nofun, nofun, fun _ _ => List.eq_nil_of_length_eq_zero hlen⟩

/-- Settles O4: what the decoder takes is a header of the port and its operand words, and the command they spell has that row, ARG and operand. -/
theorem decodeTakesExactlyTheCommand : Obligations.DecodeTakesExactlyTheCommand := by
  intro p ws i rest hd
  obtain ⟨w, o, ops, hws, ⟨hrsv, hopc, hport, harg⟩, hlen, rfl⟩ := decode_command_inv hd
  have hwf := assemble_wellFormed hlen
  have hopslen : ops.length = (assemble o w.arg ops).operands.length := by
    rw [operands_length hwf, assemble_op, assemble_arg harg hlen, hlen]
  obtain ⟨hpush, hslots, hnone⟩ := assemble_operands hlen
  rw [Instr.port, assemble_op]
  exact ⟨hwf, hport, w, ops, hws, hopslen, hrsv, hopc, (assemble_arg harg hlen).symm, hpush, hslots, hnone⟩

end Sys2Proof.Machine
end

section
/-! A port whose first word is refused, and one whose command has not all arrived (30_encoding R82, R84, R85; 60_exceptions R221). -/

namespace Sys2Proof.Machine

variable {s : State} {p : Port} {w : Word} {o : Op} {rest : List Word}

/-- R86, R87: the refusal of an illegal word, as a response word. -/
theorem responseWord_illegalCmd : responseWord .illegalCmd 0 = 0x01000000 := by decide

theorem hostMove_of_illegal {why : Illegal} (hd : decode .host s.hostPort = .illegal why rest) :
    hostMove s = .next { s with hostPort := rest, trace := s.trace ++ [.response .host 0x01000000] } := by
  simp only [hostMove, hd, State.refuse_eq_out, responseWord_illegalCmd, State.out]

theorem tickMove_of_illegal {why : Illegal} (hn : s.tick = none) (hd : decode .tick s.tickPort = .illegal why rest) :
    tickMove s = .next { s with tickPort := rest, trace := s.trace ++ [.response .tick 0x01000000] } := by
  simp only [tickMove, hn, hd, State.refuse_eq_out, responseWord_illegalCmd, State.out]

theorem hostMove_of_incomplete (hd : decode .host s.hostPort = .incomplete) : hostMove s = .next s := by
  simp only [hostMove, hd]

/-- Settles O8: the refused word is consumed alone, and the refusal is the word of ILLEGAL_CMD. -/
theorem illegalWordIsAnswered : Obligations.IllegalWordIsAnswered := by
  intro s later w rest
  constructor
  · intro hturns hport hout
    obtain ⟨why, hill⟩ := decode_of_not_inTable hout rest
    rw [← hport] at hill
    exact (step_of_turn hturns).trans (hostMove_of_illegal (s := { s with turns := later }) hill)
  · intro hturns hn hport hout
    obtain ⟨why, hill⟩ := decode_of_not_inTable hout rest
    rw [← hport] at hill
    exact (step_of_turn hturns).trans (tickMove_of_illegal (s := { s with turns := later }) hn hill)

/-- The upper half of a header word names its row, where every ARG is legal (R81, R83). -/
theorem header_of_upper_half (hw : w.toNat / 65536 = o.code.toNat * 256) (hport : o.port = p)
    (harg : ∀ a, o.argLegal a = true) : Header p w o where
  rsv := by
    apply BitVec.eq_of_toNat_eq
    rw [rsv_toNat, hw]; simp
  opc := by
    refine ofCode_eq_some_iff.mpr (BitVec.eq_of_toNat_eq ?_)
    rw [opc_toNat]; omega
  port := hport
  arg := harg _

theorem Header.decode_incomplete (h : Header p w o) (hfew : rest.length < o.operandWords w.arg) :
    decode p (w :: rest) = .incomplete := by
  rw [h.decode_eq, if_pos hfew]

/-- Settles O9: the words are a header with too few operand words, and the host's move leaves them. -/
theorem incompleteCommandWaits : Obligations.IncompleteCommandWaits := by
  intro s later w rest hturns hport hfew
  have hwait : decode .host s.hostPort = .incomplete := by
    rw [hport]
    rcases hfew with ⟨hw, hlen⟩ | ⟨hw, hlen⟩
    · have h : Header .host w .setslots := header_of_upper_half hw rfl fun _ => rfl
      exact h.decode_incomplete (by rwa [Op.operandWords, arg_toNat])
    · have h : Header .host w .qpush := header_of_upper_half hw rfl fun _ => rfl
      exact h.decode_incomplete (by rwa [Op.operandWords, arg_toNat])
  calc step s = hostMove { s with turns := later } := step_of_turn hturns
    _ = .next { s with turns := later } := hostMove_of_incomplete hwait

end Sys2Proof.Machine
end

section
/-! A tick that runs alone: how many steps it still takes, and how many requests it may still send (41_scheduler R130, R147, R149 a; 43_interfaces R206, R207). -/

namespace Sys2Proof.Machine

variable {s t : State} {pos next : TickPos} {o : Output}

/-- A bound on the steps from a position to the tick's end, with n messages queued. A BUILD takes two for a message, its pop and its test. -/
def stepsLeft (n : Nat) : TickPos → Nat
  | .finish => 1
  | .encodeDone _ _ _ | .sendDone _ _ => 2
  | .encodeWait _ _ | .sendWait _ => 3
  | .encodeCall _ _ _ | .sendCall _ => 4
  | .buildResult _ | .sendGuard _ => 5
  | .buildNofit _ _ => 6
  | .buildPop _ => 2 * n + 6
  | .buildTest _ _ | .awaitRun _ | .stillRun _ => 2 * n + 7
  | .awaitLead _ _ _ | .stillQueue _ => 2 * n + 8
  | .awaitQueue _ _ | .stillGuard _ => 2 * n + 9
  | .awaitNext _ => 2 * n + 10
  | .t4 _ => 2 * n + 11
  | .t3 _ _ => 2 * n + 12
  | .t2 _ => 2 * n + 13
  | .t1 _ => 2 * n + 14
  | .t0 _ => 2 * n + 15

/-- How many Transmitter requests a tick may still send from a position: one, until it has sent it or can no longer (R149 a). -/
def requestsLeft : TickPos → Nat
  | .finish | .encodeWait _ _ | .encodeDone _ _ _ | .sendWait _ | .sendDone _ _ => 0
  | _ => 1

theorem stepsLeft_le (n : Nat) (pos : TickPos) : stepsLeft n pos ≤ 2 * n + 15 := by
  cases pos <;> simp only [stepsLeft] <;> omega

theorem stepsLeft_pos (n : Nat) (pos : TickPos) : 0 < stepsLeft n pos := by
  cases pos <;> simp [stepsLeft]

theorem requestsLeft_le (pos : TickPos) : requestsLeft pos ≤ 1 := by
  cases pos <;> simp [requestsLeft]

/-- The tick goes on: the state is at another position, nearer to the end, and a request sent is one fewer to come. -/
structure Advances (s : State) (pos : TickPos) (t : State) (next : TickPos) (out : List Output) : Prop where
  tick : t.tick = some next
  steps : stepsLeft t.mq.length next < stepsLeft s.mq.length pos
  trace : t.trace = s.trace ++ out
  requests : (requestsIn out).length + requestsLeft next ≤ requestsLeft pos

theorem Goes.advances (h : Goes s pos next) : Advances s pos (s.goto next) next [] where
  tick := rfl
  steps := by cases h <;> simp only [stepsLeft, State.goto_mq] <;> omega
  trace := (List.append_nil _).symm
  requests := by cases h <;> simp [requestsIn, requestsLeft]

theorem Sends.advances (h : Sends s pos o next) : Advances s pos ((s.out o).goto next) next [o] where
  tick := rfl
  steps := by cases h <;> simp only [stepsLeft, State.goto_mq, State.out_mq] <;> omega
  trace := rfl
  requests := by cases h <;> simp [requestsIn, requestsLeft]

theorem MicroMove.advances (hm : MicroMove s pos t) (hwait : pos.waiting = false) (hend : pos ≠ .finish) :
    ∃ next out, Advances s pos t next out := by
  cases hm with
  | goes h => exact ⟨_, _, h.advances⟩
  | sends h => exact ⟨_, _, h.advances⟩
  | waits h => exact absurd h (ne_true_of_eq_false hwait)
  | timeBase | detector | sendOk | stillEnds | givesBackFirst | givesBack | stillBuiltNothing | encoded =>
    exact ⟨_, [], rfl, by simp [stepsLeft], by simp, by simp [requestsIn, requestsLeft]⟩
  | sendFailed | stillEncodeFailed =>
    exact ⟨_, [.event _], rfl, by simp [stepsLeft], rfl, by simp [requestsIn, requestsLeft]⟩
  | pops b m rest h =>
    exact ⟨_, [], rfl, by simp only [stepsLeft, h, State.goto_mq, List.length_cons]; omega, by simp,
      by simp [requestsIn, requestsLeft]⟩
  | ends => exact absurd rfl hend

variable (e : EncodeAnswer) (a : SendAnswer)

/-- A step of a tick that runs alone, before its end: a micro-step, or the answer it waits for. -/
theorem tickAlone_advances (hpos : s.tick = some pos) (hend : pos ≠ .finish) :
    ∃ t next out, Advances s pos t next out ∧ ∀ n, tickAlone e a (n + 1) s = tickAlone e a n t := by
  cases hwait : pos.waiting with
  | false =>
    obtain ⟨next, out, h⟩ := (microStep_cases pos s).advances hwait hend
    exact ⟨_, next, out, h, fun n => tickAlone_micro e a n hpos hwait⟩
  | true =>
    cases pos with
    | sendWait time =>
      exact ⟨_, _, [.sendAnswer a], ⟨rfl, by simp [stepsLeft], rfl, by simp [requestsIn, requestsLeft]⟩,
        fun n => tickAlone_sendWait e a n hpos⟩
    | encodeWait arm time =>
      exact ⟨_, _, [.encodeAnswer e], ⟨rfl, by simp [stepsLeft], rfl, by simp [requestsIn, requestsLeft]⟩,
        fun n => tickAlone_encodeWait e a n hpos⟩
    | _ => cases hwait

/-- A tick that runs alone ends within the steps left to it, answered, with no more requests than it may still send. -/
theorem tickAlone_ends (n : Nat) (hpos : s.tick = some pos) (hn : stepsLeft s.mq.length pos ≤ n) :
    ∃ t out, tickAlone e a n s = .next t ∧ t.tick = none ∧ t.trace = s.trace ++ out ++ [.response .tick 0] ∧
      (requestsIn out).length ≤ requestsLeft pos := by
  induction n generalizing s pos with
  | zero => exact absurd hn (Nat.not_le.mpr (stepsLeft_pos _ _))
  | succ n ih =>
    by_cases hend : pos = .finish
    · subst hend
      refine ⟨s.endTick, [], ?_, rfl, by simp [responseWord_ok], Nat.zero_le _⟩
      rw [tickAlone_micro e a n hpos rfl]
      exact tickAlone_idle e a n rfl
    · obtain ⟨t, next, out, ⟨htick, hsteps, htrace, hreq⟩, hrun⟩ := tickAlone_advances e a hpos hend
      obtain ⟨u, out', hrun', hidle, htrace', hreq'⟩ := ih htick (by omega)
      refine ⟨u, out ++ out', (hrun n).trans hrun', hidle, by simp [htrace', htrace], ?_⟩
      have hsplit : requestsIn (out ++ out') = requestsIn out ++ requestsIn out' := List.filterMap_append
      rw [hsplit, List.length_append]
      omega

/-- Settles O45: from every position the steps left are within the bound, and the requests left are at most one. -/
theorem everyTickEndsAnswered : Obligations.EveryTickEndsAnswered := by
  intro e a s pos hpos
  have hbound := stepsLeft_le s.mq.length pos
  obtain ⟨t, out, hrun, hidle, htrace, hreq⟩ := tickAlone_ends e a (3 * s.mq.length + 20) hpos (by omega)
  exact ⟨t, out, hrun, hidle, htrace, Nat.le_trans hreq (requestsLeft_le pos)⟩

end Sys2Proof.Machine
end

section
/-! The slot of a number counts mod 16, and what a plan allows fixes the plan (10_state R21; 20_memory R51; 40_timeslotplan R112 to R116). -/

namespace Sys2Proof.Machine

variable {p q : Half} {a b slot time : Int}

/-- R112, over all integers. -/
theorem indexOf_cast (time : Int) : (indexOf time : Int) = time / 64 % 16 := by
  rw [indexOf]; omega

theorem indexOf_nat (t : Nat) : indexOf t = t / 64 % 16 := by
  have := indexOf_cast t
  omega

theorem slotAllowed_congr (h : a % 16 = b % 16) : slotAllowed p a = slotAllowed p b := by
  rw [slotAllowed, slotAllowed, h]

/-- The sixteen bits of a plan are its answers to isAllowed (R21, R113). -/
theorem plan_ext (h : ∀ slot, slotAllowed p slot = slotAllowed q slot) : p = q :=
  BitVec.eq_of_getLsbD_eq fun i hi => by
    simpa only [slotAllowed_nat, Nat.mod_eq_of_lt hi] using h i

@[simp] theorem slotAllowed_empty (slot : Int) : slotAllowed 0 slot = false := by simp [slotAllowed]

@[simp] theorem slotAllowed_full (slot : Int) : slotAllowed 0xFFFF slot = true := by
  have hmod : (slot % 16).toNat < 16 := by omega
  have hfull : (0xFFFF : Half) = BitVec.allOnes 16 := by decide
  rw [slotAllowed, hfull, BitVec.getLsbD_allOnes, decide_eq_true hmod]

theorem allowedRun_all (p : Half) (slot : Int) : ∀ i < allowedRun p slot, slotAllowed p (slot + i) = true :=
  runWithin_all p slot 16

theorem allowedRun_stop (h : allowedRun p slot < 16) : slotAllowed p (slot + allowedRun p slot) = false :=
  runWithin_stop p slot 16 h

/-- R114: sixteen slots in a row are all there are. -/
theorem allowedRun_eq_sixteen_iff : allowedRun p slot = 16 ↔ p = 0xFFFF := by
  constructor
  · intro hrun
    refine plan_ext fun x => ?_
    have hx := allowedRun_all p slot ((x - slot) % 16).toNat (by omega)
    rw [slotAllowed_full, ← hx]
    exact slotAllowed_congr (by omega)
  · rintro rfl
    refine Nat.le_antisymm (allowedRun_le _ _) (Nat.le_of_not_lt fun hlt => ?_)
    have hstop := allowedRun_stop hlt
    rw [slotAllowed_full] at hstop
    cases hstop

/-- R118 (c). -/
theorem allowedRun_pos_iff : 0 < allowedRun p slot ↔ slotAllowed p slot = true := by
  rw [allowedRun, runWithin]
  split <;> simp [*]

/-- The sixteen slots after the current one are all slots, so no distance is found in the empty plan alone (R116). -/
theorem nextDistance_eq_none_iff : nextDistance p time = none ↔ p = 0 := by
  rw [nextDistance, List.find?_range'_eq_none]
  constructor
  · intro hnone
    refine plan_ext fun x => ?_
    have hx := hnone ((x - indexOf time - 1) % 16 + 1).toNat (by omega) (by omega)
    rw [Bool.not_eq_true'] at hx
    rw [slotAllowed_empty, ← hx]
    exact slotAllowed_congr (by omega)
  · rintro rfl j - -
    rw [slotAllowed_empty, Bool.not_false]

theorem timeToNext_eq_none_iff : timeToNext p time = none ↔ p = 0 := by
  rw [timeToNext, Option.map_eq_none_iff, nextDistance_eq_none_iff]

/-- The next slot, where it is allowed, is the nearest (R118 d). -/
theorem timeToNext_of_nextAllowed (h : nextAllowed p time = true) : timeToNext p time = some (64 - time % 64) := by
  have hj : nextDistance p time = some 1 :=
    (nextDistance_eq_some p time 1).mpr ⟨by omega, h, fun k hk hk' => by omega⟩
  rw [timeToNext, hj]
  rfl

theorem leadShort_some (d : Int) : leadShort (some d) = true ↔ d ≤ 3 := decide_eq_true_iff

end Sys2Proof.Machine
end

section
/-! The plan a string of characters spells, and what SETSLOTS makes of it (30_encoding R94; 40_timeslotplan R111). -/

namespace Sys2Proof.Machine

variable {chars : List Byte} {digits : List Nat} {plan : Half} {i : Nat}

theorem mapM_hexDigit_eq_none_iff : chars.mapM hexDigit = none ↔ ∃ c ∈ chars, hexDigit c = none := by
  induction chars with
  | nil => simp
  | cons c cs ih =>
    have hcons : (∃ x ∈ c :: cs, hexDigit x = none) ↔ hexDigit c = none ∨ cs.mapM hexDigit = none := by
      simp only [List.mem_cons, exists_eq_or_imp, ih]
    rw [List.mapM_cons, hcons]
    cases hexDigit c with
    | none => simp
    | some d => cases cs.mapM hexDigit <;> simp

/-- The digits are the values of the characters, one for one. -/
theorem map_hexDigit_of_mapM (h : chars.mapM hexDigit = some digits) : chars.map hexDigit = digits.map some := by
  induction chars generalizing digits with
  | nil => cases h; rfl
  | cons c cs ih =>
    rw [List.mapM_cons] at h
    obtain ⟨d, hd, h⟩ := Option.bind_eq_some_iff.mp h
    obtain ⟨ds, hds, h⟩ := Option.bind_eq_some_iff.mp h
    cases h
    rw [List.map_cons, List.map_cons, hd, ih hds]

theorem mem_digits_iff (h : chars.mapM hexDigit = some digits) : i ∈ digits ↔ ∃ c ∈ chars, hexDigit c = some i := by
  rw [← List.mem_map, map_hexDigit_of_mapM h]
  simp only [List.mem_map, Option.some.injEq, exists_eq_right]

/-- Setting digit by digit adds the digits' bits to those set before. -/
theorem getLsbD_setDigits (hi : i < 16) :
    (digits.foldl (fun plan d => plan ||| BitVec.ofNat 16 (2 ^ d)) plan).getLsbD i = true ↔
      plan.getLsbD i = true ∨ i ∈ digits := by
  induction digits generalizing plan with
  | nil => simp
  | cons d ds ih =>
    rw [List.foldl_cons, ih, BitVec.getLsbD_or, BitVec.getLsbD_ofNat, Nat.testBit_two_pow]
    simp [hi, or_assoc, eq_comm (a := i)]

theorem planOf_eq_none_iff : planOf chars = none ↔ ∃ c ∈ chars, hexDigit c = none := by
  rw [planOf, Option.map_eq_none_iff, mapM_hexDigit_eq_none_iff]

/-- R111: bit i of the plan is set exactly when digit i occurs in the string. -/
theorem planOf_getLsbD (h : planOf chars = some plan) (hi : i < 16) :
    plan.getLsbD i = true ↔ ∃ c ∈ chars, hexDigit c = some i := by
  obtain ⟨digits, hdigits, rfl⟩ := Option.map_eq_some_iff.mp h
  rw [getLsbD_setDigits hi, mem_digits_iff hdigits]
  simp

theorem exec_setslots_of_some (s : State) (h : planOf chars = some plan) :
    exec (.setslots chars) s = .next { s with slots := plan, trace := s.trace ++ [.response .host 0] } := by
  have hok : responseWord .ok 0 = 0 := by decide
  simp only [exec, execSetslots, h, State.respond_eq_out, hok, State.setPlan, State.out]

theorem exec_setslots_of_none (s : State) (h : planOf chars = none) :
    exec (.setslots chars) s = .next { s with trace := s.trace ++ [.response .host 0x02000000] } := by
  have hbad : responseWord .badDigit 0 = 0x02000000 := by decide
  simp only [exec, execSetslots, h, State.refuse_eq_out, hbad, State.out]

/-- The plan after SETSLOTS is the string's, whatever the plan before, or the old one where the string is refused. -/
theorem slots_of_exec_setslots {s t : State} (h : exec (.setslots chars) s = .next t) :
    t.slots = (planOf chars).getD s.slots := by
  cases hp : planOf chars with
  | none => rw [exec_setslots_of_none s hp] at h; cases h; rfl
  | some plan => rw [exec_setslots_of_some s hp] at h; cases h; rfl

/-- Settles O13: a string of hex digits spells a plan, a string with another character spells none. -/
theorem setslotsReplacesThePlan : Obligations.SetslotsReplacesThePlan := by
  intro s chars
  constructor
  · intro hdigits
    have hne : planOf chars ≠ none := fun hnone => by
      obtain ⟨c, hc, hbad⟩ := planOf_eq_none_iff.mp hnone
      simpa [hbad] using hdigits c hc
    obtain ⟨plan, hplan⟩ := Option.ne_none_iff_exists'.mp hne
    exact ⟨plan, exec_setslots_of_some s hplan, fun i hi => planOf_getLsbD hplan hi⟩
  · intro hbad
    exact exec_setslots_of_none s (planOf_eq_none_iff.mpr hbad)

end Sys2Proof.Machine
end

section
/-! The plan queries as commands: each answers and, but for the detector, writes nothing (40_timeslotplan R112 to R117). -/

namespace Sys2Proof.Machine

/-- The commands that ask the plan or the time's index and write nothing (R112 to R116). -/
def planQuery : Instr → Bool
  | .isallowed _ | .allowedrun _ | .indexof _ | .isnextallowed _ | .timetonext _ => true
  | _ => false

theorem exec_planQuery {i : Instr} (s : State) {w : Word} (hq : planQuery i = true) (hw : hostAnswer s i = w) :
    exec i s = .next { s with trace := s.trace ++ [.response .host w] } := by
  subst hw
  cases i with
  | isallowed _ | allowedrun _ | indexof _ | isnextallowed _ | timetonext _ => rfl
  | _ => cases hq

theorem hostAnswer_timetonext_of_some {s : State} {time : Half} {d : Nat}
    (h : timeToNext s.slots (timeArg time) = some (d : Int)) (hd : d < 65536) :
    hostAnswer s (.timetonext time) = BitVec.ofNat 32 d := by
  rw [hostAnswer, h, Option.getD_some, responseWord_nat d hd]

theorem hostAnswer_timetonext_of_none {s : State} {time : Half} (h : timeToNext s.slots (timeArg time) = none) :
    hostAnswer s (.timetonext time) = 0 := by
  rw [hostAnswer, h]
  decide

/-- R116 for a 16-bit time: the lead to the slot at the least distance. -/
theorem timeToNext_half {p time : Half} {j : Nat} (hpos : 1 ≤ j) (hle : j ≤ 16)
    (hj : p.getLsbD ((time.toNat / 64 + j) % 16) = true)
    (hleast : ∀ k, 1 ≤ k → k < j → p.getLsbD ((time.toNat / 64 + k) % 16) = false) :
    timeToNext p (timeArg time) = some ((64 * j - time.toNat % 64 : Nat) : Int) := by
  have hdist : nextDistance p (timeArg time) = some j := by
    simp only [nextDistance_eq_some, slotAllowed_after]
    exact ⟨⟨hpos, hle⟩, hj, hleast⟩
  rw [timeToNext, hdist, Option.map_some, timeArg]
  congr 1
  omega

/-- Settles O14: the index of a 16-bit time is the word's number, and 65536 is a whole number of sixteen-slot cycles. -/
theorem indexofAnswersTheSlotIndex : Obligations.IndexofAnswersTheSlotIndex := by
  refine ⟨fun s time => exec_planQuery s rfl ?_, indexOf_cast, fun time k => ?_⟩
  · rw [hostAnswer, indexOf_half, responseWord_nat _ (by omega)]
  · have := indexOf_cast time
    have := indexOf_cast (time + 65536 * k)
    omega

/-- Settles O15: the answer is the bit that isAllowed reads. -/
theorem isallowedAnswersTheSlotBit : Obligations.IsallowedAnswersTheSlotBit := fun s slot =>
  exec_planQuery s rfl (by rw [hostAnswer, responseWord_bit, slotArg, slotAllowed_nat])

/-- Settles O16: the run's slots are allowed and the slot after a run below 16 is not. -/
theorem allowedrunAnswersTheLongestRun : Obligations.AllowedrunAnswersTheLongestRun := by
  intro s slot
  have hle := allowedRun_le s.slots (slotArg slot)
  have hbit (i : Nat) : s.slots.getLsbD ((slot.toNat + i) % 16) = slotAllowed s.slots (slotArg slot + i) :=
    (slotAllowed_nat s.slots (slot.toNat + i)).symm
  refine ⟨allowedRun s.slots (slotArg slot), hle, exec_planQuery s rfl ?_, fun i hi => ?_, fun h => ?_,
    allowedRun_eq_sixteen_iff⟩
  · exact responseWord_nat _ (by omega)
  · rw [hbit, allowedRun_all _ _ i hi]
  · rw [hbit, allowedRun_stop h]

/-- Settles O17: the answer is the bit that isNextAllowed reads. -/
theorem isnextallowedAnswersTheNextSlot : Obligations.IsnextallowedAnswersTheNextSlot := fun s time =>
  exec_planQuery s rfl (by rw [hostAnswer, responseWord_bit, nextAllowed_half])

/-- Settles O18: the least distance gives the lead, and the empty plan has none. -/
theorem timetonextAnswersTheLead : Obligations.TimetonextAnswersTheLead := by
  intro s time
  constructor
  · intro j hpos hle hj hleast
    exact exec_planQuery s rfl (hostAnswer_timetonext_of_some (timeToNext_half hpos hle hj hleast) (by omega))
  · intro hempty
    have hnone : timeToNext s.slots (timeArg time) = none := timeToNext_eq_none_iff.mpr hempty
    exact ⟨exec_planQuery s rfl (hostAnswer_timetonext_of_none hnone), by rw [hnone, leadShort]⟩

/-- Settles O19: the detector is compared and written at once, by one condition. -/
theorem haschangedObservesTheIndex : Obligations.HaschangedObservesTheIndex := by
  intro s time
  rw [exec, execHaschanged, State.respond_eq_out, responseWord_bit, State.observe]
  by_cases hnew : s.slotChanged (timeArg time) = true
  · rw [if_pos hnew, if_pos hnew, if_pos ((slotChanged_half s time).mp hnew), indexOf_half, State.out]
  · rw [if_neg hnew, if_neg hnew, if_neg (mt (slotChanged_half s time).mpr hnew), State.out]

/-- R118 (a): a time is its pass, its slot and its place in the slot. -/
theorem indexOf_eq_iff {i t : Nat} (hi : i < 16) (ht : t < 65536) :
    indexOf t = i ↔ ∃ pass < 64, ∃ k < 64, t = 1024 * pass + 64 * i + k := by
  rw [indexOf_nat]
  constructor
  · intro h
    exact ⟨t / 1024, by omega, t % 64, by omega, by omega⟩
  · rintro ⟨pass, -, k, hk, rfl⟩
    omega

/-- R118 (b): the next slot is the slot 64 ticks later. -/
theorem nextAllowed_eq_later (plan : Half) (time : Int) : nextAllowed plan time = slotAllowed plan (indexOf (time + 64)) :=
  slotAllowed_congr (by rw [indexOf_cast, indexOf_cast]; omega)

/-- Settles O20: clause by clause, by the laws of the plan queries and the plan that SETSLOTS leaves. -/
theorem slotPlanFacts : Obligations.SlotPlanFacts := by
  refine ⟨fun i t => indexOf_eq_iff, nextAllowed_eq_later, fun plan slot => allowedRun_pos_iff, fun plan time hnext => ?_,
    fun plan time => timeToNext_eq_none_iff, fun s t u chars ht hu => ?_⟩
  · have hlead := timeToNext_of_nextAllowed hnext
    refine ⟨hlead, ?_⟩
    rw [hlead, leadShort_some]
    omega
  · rw [slots_of_exec_setslots hu, slots_of_exec_setslots ht]
    cases planOf chars <;> rfl

end Sys2Proof.Machine
end

section
/-! The Scheduler's commands, and a TICK that waits while a tick runs (41_scheduler R131, R150 to R154; 60_exceptions R222). -/

namespace Sys2Proof.Machine

variable {s t : State}

/-- A command word as one number (R81). -/
theorem commandWord_ofNat (o : Op) (arg : Half) :
    commandWord o arg = BitVec.ofNat 32 (o.code.toNat * 16777216 + arg.toNat) := by
  apply BitVec.eq_of_toNat_eq
  have := o.code.isLt
  have := arg.isLt
  rw [commandWord, fields_toNat, BitVec.toNat_ofNat, show (0 : Byte).toNat = 0 from rfl]
  omega

/-- R222: while a tick runs a TICK waits, as one equation. -/
theorem execTick_busy {pos : TickPos} (wall : Half) (h : s.tick = some pos) :
    exec (.tick wall) s = .next { s with tickPort := commandWord .tick wall :: s.tickPort } := by
  simp [exec, execTick, State.tickBusy, h]

/-- R151: the sum is taken mod 65536. -/
theorem corr_of_exec_correcttime {delta : Half} (h : exec (.correcttime delta) s = .next t) :
    (t.corr.toNat : Int) = ((s.corr.toNat : Int) + delta.toInt) % 65536 := by
  cases h
  exact half_toNat _

/-- Settles O10: the tick engine's turn is a micro-step, which takes no word, and the TICK's own word is what waits. -/
theorem tickPortHeldOff : Obligations.TickPortHeldOff := by
  intro s pos hpos
  refine ⟨fun later hturns => ⟨_, step_tick hpos hturns, ?_⟩, fun wall => ?_⟩
  · obtain ⟨-, -, -, -, -, -, hport, -⟩ := microStep_keeps pos { s with turns := later }
    exact hport
  · rw [execTick_busy wall hpos, commandWord_ofNat]
    rfl

/-- Settles O21: an accepted TICK only takes its place at T0. -/
theorem tickIsAcceptedWhenIdle : Obligations.TickIsAcceptedWhenIdle := by
  intro s wall hidle
  have hnone : s.tick = none := by simpa [State.tickBusy] using hidle
  exact ⟨_, execTick_idle wall s hnone, rfl, rfl⟩

/-- Settles O22: each command is its write, if it has one, and its answer. -/
theorem gettimeCancelSetobserverEffects : Obligations.GettimeCancelSetobserverEffects := by
  intro s
  refine ⟨?_, rfl, fun enable => rfl⟩
  rw [← responseWord_ok]
  rfl

/-- Settles O23: the correction left by one command is what the next one adds to. -/
theorem correcttimeAccumulates : Obligations.CorrecttimeAccumulates := by
  refine ⟨fun s delta => ⟨_, rfl, half_toNat _⟩, fun s t u d e ht hu => ?_⟩
  rw [corr_of_exec_correcttime hu, corr_of_exec_correcttime ht]
  omega

end Sys2Proof.Machine
end

section
/-! The micro-steps that the tick engine takes in a row, each on a turn of its own (41_scheduler R132 to R135, R141, R143, R144, R146, R147). -/

namespace Sys2Proof.Machine

variable {s : State} {pos : TickPos} {later : List Turn}

/-- The tick engine's turn, and the steps after it. -/
theorem steps_tick (n : Nat) {t : State} (hpos : s.tick = some pos) (hturns : s.turns = .tick :: later)
    (ht : microStep pos { s with turns := later } = t) : steps (n + 1) s = steps n t := by
  rw [steps, step_tick hpos hturns, ht]

theorem step_tick_eq {t : State} (hpos : s.tick = some pos) (hturns : s.turns = .tick :: later)
    (ht : microStep pos { s with turns := later } = t) : step s = .next t := by
  rw [step_tick hpos hturns, ht]

/-! ### Event words as numbers (R98) -/

theorem obsNotify_word (plan : Half) : (Event.obsNotify plan).word = BitVec.ofNat 32 (0x01000000 + plan.toNat) := by
  rw [eventWord_fields]
  simp [Event.code, Event.fieldA, Event.fieldB]

theorem logSendFail_word (time : Half) : (Event.logSendFail time).word = BitVec.ofNat 32 (0x11010000 + time.toNat) := by
  rw [eventWord_fields]
  simp [Event.code, Event.fieldA, Event.fieldB]

theorem logEncodeFail_word (st : SchedState) (time : Half) : (Event.logEncodeFail st time).word =
    BitVec.ofNat 32 (0x10000000 + 0x10000 * st.code.toNat + time.toNat) := by
  rw [eventWord_fields]
  cases st <;> simp [Event.code, Event.fieldA, Event.fieldB, SchedState.code]

/-! ### Single micro-steps -/

section
variable {wall time : Half} {arm : Arm}

theorem microStep_t0_of_cancel (h : s.cancel = true) : microStep (.t0 wall) s = s.goto .finish := if_pos h

theorem microStep_t0_of_no_cancel (h : s.cancel = false) : microStep (.t0 wall) s = s.goto (.t1 wall) :=
  if_neg (ne_true_of_eq_false h)

theorem tickTime_toNat (wall : Half) (s : State) : (tickTime wall s).toNat = (wall.toNat + s.corr.toNat) % 65536 := by
  have := half_toNat (wall.toNat + s.corr.toNat)
  rw [tickTime]
  omega

theorem microStep_t2_of_changed (h : s.slotChanged (timeArg time) = true) : microStep (.t2 time) s =
    { s with lastValid := true, lastIdx := BitVec.ofNat 4 (time.toNat / 64 % 16) }.goto (.t3 time true) := by
  rw [microStep, tickT2, State.observe_changed _ _ h, h, indexOf_half]

theorem microStep_t2_of_unchanged (h : s.slotChanged (timeArg time) = false) :
    microStep (.t2 time) s = s.goto (.t3 time false) := by
  rw [microStep, tickT2, State.observe_unchanged _ _ h, h]

theorem microStep_t3_of_changed (time : Half) (s : State) : microStep (.t3 time true) s =
    { s with trace := s.trace ++ if s.obsEn then [Output.event (BitVec.ofNat 32 (0x01000000 + s.slots.toNat))] else [] }.goto
      (.t4 time) := by
  rw [← obsNotify_word, microStep, tickT3, Bool.true_and]
  by_cases hobs : s.obsEn = true
  · rw [if_pos hobs, if_pos hobs]
    rfl
  · rw [if_neg hobs, if_neg hobs, List.append_nil]

/-- Writing the STATE that already stands changes nothing. -/
theorem State.setSched_self {st : SchedState} (h : s.sched = st) : s.setSched st = s := by
  subst h
  rfl

/-- What the Transmitter's answer to an ENCODE comes to, in both arms (R143, R146; log entry 10). -/
def settleEncode (arm : Arm) (time : Half) (e : EncodeAnswer) (s : State) : State :=
  match e with
  | .ok p => (s.storePayload p).setSched .dataEncoded
  | .fail => (s.emit (.logEncodeFail arm.startState time)).setSched .awaitingSlot

/-- The arm of AWAITING_SLOT need not write the STATE it leaves. -/
theorem microStep_encodeDone {e : EncodeAnswer} (h : s.sched = arm.startState) :
    microStep (.encodeDone arm time e) s = (settleEncode arm time e s).goto .finish := by
  cases e with
  | ok p => rfl
  | fail =>
    cases arm with
    | awaiting => exact congrArg (State.goto · .finish) (State.setSched_self (s := s.emit _) h).symm
    | still => rfl

end

/-! ### The three conditions of AWAITING_SLOT (R141) -/

theorem leadShort_of_nextAllowed {p time : Half} (h : nextAllowed p (timeArg time) = true) :
    leadShort (timeToNext p (timeArg time)) = true ↔ 61 ≤ time.toNat % 64 := by
  rw [timeToNext_of_nextAllowed h, leadShort_some, timeArg]
  omega

theorem queueEmpty_eq_true_iff : s.queueEmpty = true ↔ s.mq = [] := List.isEmpty_iff

/-- The guard of AWAITING_SLOT, all three conditions read from one state. -/
abbrev awaitGuard (time : Half) (s : State) : Bool :=
  nextAllowed s.slots (timeArg time) && !s.queueEmpty && leadShort (timeToNext s.slots (timeArg time))

theorem awaitGuard_iff (time : Half) (s : State) : awaitGuard time s = true ↔
    s.slots.getLsbD ((time.toNat / 64 + 1) % 16) = true ∧ s.mq ≠ [] ∧ 61 ≤ time.toNat % 64 := by
  rw [Bool.and_eq_true, Bool.and_eq_true, and_assoc, ← nextAllowed_half]
  refine and_congr_right fun hnext => and_congr ?_ (leadShort_of_nextAllowed hnext)
  rw [Bool.not_eq_true', ← Bool.not_eq_true, queueEmpty_eq_true_iff]

theorem microStep_awaitLead (time : Half) (a q : Bool) (s : State) : microStep (.awaitLead time a q) s =
    s.goto (if a && q && leadShort (timeToNext s.slots (timeArg time)) then .awaitRun time else .finish) :=
  (apply_ite s.goto _ _ _).symm

/-! ### The statements -/

/-- Settles O28: T0 leads to the tick's end, which only answers. -/
theorem cancelledTickIsANoOp : Obligations.CancelledTickIsANoOp := by
  intro s wall later hpos hcancel hturns
  exact (steps_tick 1 hpos hturns (microStep_t0_of_cancel hcancel)).trans (steps_tick 0 rfl rfl rfl)

/-- Settles O29: the time written and the time kept are one value, the tick's time. -/
theorem timeBaseIsSampledAtTOne : Obligations.TimeBaseIsSampledAtTOne :=
  fun s wall _ hpos hturns => ⟨tickTime wall s, tickTime_toNat wall s, step_tick hpos hturns⟩

/-- Settles O30: T3 is told what T2's change detector answered. -/
theorem slotChangeIsReportedOnce : Obligations.SlotChangeIsReportedOnce := by
  intro s time later hpos hturns
  cases hnew : s.slotChanged (timeArg time) with
  | true =>
    rw [if_pos ((slotChanged_half s time).mp hnew), steps_tick 1 hpos hturns (microStep_t2_of_changed hnew)]
    exact steps_tick 0 rfl rfl (microStep_t3_of_changed time _)
  | false =>
    rw [if_neg (mt (slotChanged_half s time).mpr (ne_true_of_eq_false hnew)),
      steps_tick 1 hpos hturns (microStep_t2_of_unchanged hnew)]
    exact steps_tick 0 rfl rfl rfl

/-- Settles O31: with nothing between them the three micro-steps read one state, whose guard decides. -/
theorem awaitingGoesInTheLastThreeTicks : Obligations.AwaitingGoesInTheLastThreeTicks := by
  intro s time later hpos hturns
  calc steps 3 s
    _ = steps 2 ({ s with turns := .tick :: .tick :: later }.goto
          (.awaitQueue time (nextAllowed s.slots (timeArg time)))) := steps_tick 2 hpos hturns rfl
    _ = steps 1 ({ s with turns := .tick :: later }.goto
          (.awaitLead time (nextAllowed s.slots (timeArg time)) (!s.queueEmpty))) := steps_tick 1 rfl rfl rfl
    _ = .next ({ s with turns := later }.goto (if awaitGuard time s then .awaitRun time else .finish)) :=
          steps_tick 0 rfl rfl (microStep_awaitLead time _ _ _)
    _ = _ := by simp only [awaitGuard_iff]; rfl

/-- Settles O32: on the tick engine's turn the answer's outcome takes effect. -/
theorem encodeOutcome : Obligations.EncodeOutcome := by
  intro s arm time a later hpos hturns hsched
  rw [step_tick_eq hpos hturns (microStep_encodeDone hsched)]
  cases a with
  | ok p => rfl
  | fail =>
    rw [settleEncode, State.emit_eq_out, logEncodeFail_word, hsched]
    rfl

/-- Settles O33: the failure's log is the only difference. -/
theorem sendOutcomeFailsForward : Obligations.SendOutcomeFailsForward := by
  intro s time a later hpos hturns
  rw [step_tick hpos hturns, ← logSendFail_word]
  cases a with
  | ok => rw [List.append_nil]; rfl
  | fail => rfl

end Sys2Proof.Machine
end

section
/-! STATE and the SEND in every interleaving: which steps write STATE, and which step comes to the SEND (41_scheduler R143 to R146, R148, R149 b). -/

namespace Sys2Proof.Machine

variable {s t : State} {pos : TickPos}

/-- A micro-step that changes STATE is a row of the table: its position, and where STATE goes (R148; log entry 10). -/
theorem MicroMove.schedRow (hm : MicroMove s pos t) (hok : PosOk s.params s.sched pos) (hne : t.sched ≠ s.sched) :
    (∃ arm time p, pos = .encodeDone arm time (.ok p) ∧ s.sched = arm.startState ∧ t.sched = .dataEncoded) ∨
    (∃ time a, pos = .sendDone time a ∧ s.sched = .dataEncoded ∧ t.sched = .slotStillAllowed) ∨
    (s.sched = .slotStillAllowed ∧ t.sched = .awaitingSlot ∧
      ((∃ time, pos = .stillGuard time ∧ s.slots.getLsbD (time.toNat / 64 % 16) = false) ∨
       (∃ b, pos = .buildResult b ∧ b.consumed = 0) ∨ ∃ time, pos = .encodeDone .still time .fail)) := by
  cases hm with
  | encoded arm time p => exact .inl ⟨arm, time, p, rfl, hok, rfl⟩
  | sendOk time => exact .inr (.inl ⟨time, .ok, rfl, hok, rfl⟩)
  | sendFailed time => exact .inr (.inl ⟨time, .fail, rfl, hok, rfl⟩)
  | stillEnds time h =>
    rw [slotAllowed_current] at h
    exact .inr (.inr ⟨hok, rfl, .inl ⟨time, rfl, h⟩⟩)
  | stillBuiltNothing b hc ha =>
    obtain ⟨-, hsched⟩ := hok
    exact .inr (.inr ⟨by rw [hsched, ha]; rfl, rfl, .inr (.inl ⟨b, rfl, hc⟩)⟩)
  | stillEncodeFailed time => exact .inr (.inr ⟨hok, rfl, .inr (.inr ⟨time, rfl⟩)⟩)
  | goes | sends | waits | timeBase | detector | pops | givesBackFirst | givesBack | ends => simp at hne

/-- The one micro-step to the SEND is the guard's, with the slot allowed (R144). -/
theorem MicroMove.toSendCall {time : Half} (hm : MicroMove s pos t) (ht : t.tick = some (.sendCall time))
    (hs : s.tick ≠ t.tick) : pos = .sendGuard time ∧ s.slots.getLsbD (time.toNat / 64 % 16) = true := by
  cases hm with
  | goes hg =>
    cases ht
    cases hg with
    | sendAllowed time h => exact ⟨rfl, slotAllowed_current s.slots time ▸ h⟩
  | sends hsent =>
    cases ht
    cases hsent
  | waits => exact absurd rfl hs
  | _ => cases ht

/-- A step is a micro-step, or it leaves STATE as it is, reset apart, and brings no tick to its SEND. -/
theorem step_micro_or (hstep : step s = .next t) :
    (∃ later d pos, s.tick = some pos ∧ MicroMove { s with turns := later, draws := d } pos t) ∨
    (s.turns.head? ≠ some .reset → t.sched = s.sched) ∧ ∀ time, t.tick = some (.sendCall time) → s.tick = t.tick := by
  cases step_cases hstep with
  | micro later d pos hp ht => exact .inl ⟨later, d, pos, hp, .of_eq ht⟩
  | hostCommand later d i rest hd he =>
    obtain ⟨u, w, hw, rfl⟩ := hostCommand_next hd he
    obtain ⟨-, -, hsched, -, -, htick, -⟩ := hw.keeps
    exact .inr ⟨fun _ => hsched, fun _ _ => htick.symm⟩
  | tickCommand later d i rest hn hd he =>
    obtain ⟨wall, -, rfl⟩ := tickCommand_next hn hd he
    exact .inr ⟨fun _ => rfl, nofun⟩
  | reset later hturns ht =>
    subst ht
    exact .inr ⟨fun h => absurd (congrArg List.head? hturns) h, nofun⟩
  | encodeAnswer _ _ _ _ _ ht | sendAnswer _ _ _ _ ht =>
    subst ht
    exact .inr ⟨fun _ => rfl, nofun⟩
  | hostIllegal _ _ _ _ _ ht | tickIllegal _ _ _ _ _ _ ht | idle _ _ ht =>
    subst ht
    exact .inr ⟨fun _ => rfl, fun _ _ => rfl⟩

/-- Settles O50: the invariant puts the position in the arm that STATE selects, and each branch that writes STATE is a row. -/
theorem stateMovesOnlyAlongTheTable : Obligations.StateMovesOnlyAlongTheTable := by
  intro s t h hstep hreset hne
  rcases step_micro_or hstep with ⟨later, d, pos, hpos, hm⟩ | ⟨hsched, -⟩
  · simpa only [hpos, Option.some.injEq] using hm.schedRow (h.position_ok pos hpos) hne
  · exact absurd (hsched hreset) hne

/-- Settles O51: the guard is the only way to the SEND, and the SEND's position the only one that asks for it. -/
theorem sendStartsOnlyInAnAllowedSlot : Obligations.SendStartsOnlyInAnAllowedSlot := by
  intro s t hstep
  refine ⟨fun time ht hs => ?_, fun p ht => ?_⟩
  · rcases step_micro_or hstep with ⟨later, d, pos, hpos, hm⟩ | ⟨-, hsend⟩
    · simpa only [hpos, Option.some.injEq] using hm.toSendCall ht hs
    · exact absurd (hsend time ht) hs
  · rcases step_request hstep ht with ⟨time, htick, hr⟩ | ⟨_, _, _, _, hr⟩
    · exact ⟨time, htick, XmitRequest.send.inj hr⟩
    · cases hr

end Sys2Proof.Machine
end

section
/-! A BUILD that nothing interrupts, as one function: what it keeps, what it sends, and what it comes to (42_batchbuilder R174 to R178, R182; 41_scheduler R142, R143, R145, R146). -/

namespace Sys2Proof.Machine

variable {s : State} {b : BuildLocals} {m : Message} {rest : List Message}

/-! ### BUILD's loop -/

theorem buildLoop_of_fits (p : Params) (h : (neededBatches b.stream m : Int) ≤ b.maxBatches) :
    buildLoop p b (m :: rest) = buildLoop p (consumeMessage p b m) rest := if_neg (Int.not_lt.mpr h)

theorem buildLoop_of_unfit (p : Params) (h : b.maxBatches < (neededBatches b.stream m : Int)) :
    buildLoop p b (m :: rest) = (b, m :: rest, if b.consumed = 0 then some (neededBatches b.stream m) else none) :=
  if_pos h

/-- BUILD's loop keeps the arm and the time, and has a diagnostic only where it consumed nothing (R182). -/
theorem buildLoop_keeps (p : Params) (b : BuildLocals) (msgs : List Message) :
    (buildLoop p b msgs).1.arm = b.arm ∧ (buildLoop p b msgs).1.time = b.time ∧
    ((buildLoop p b msgs).1.consumed ≠ 0 → (buildLoop p b msgs).2.2 = none) := by
  induction msgs generalizing b with
  | nil => exact ⟨rfl, rfl, fun _ => rfl⟩
  | cons m rest ih =>
    by_cases hfit : (neededBatches b.stream m : Int) ≤ b.maxBatches
    · rw [buildLoop_of_fits p hfit]
      exact ih (consumeMessage p b m)
    · rw [buildLoop_of_unfit p (Int.not_le.mp hfit)]
      exact ⟨rfl, rfl, fun hc => if_neg hc⟩

/-! ### BUILD as a whole -/

theorem buildWhole_of_empty (h : s.mq = []) : buildWhole b s = (b, s) := by
  cases s
  cases h
  rfl

theorem buildWhole_of_fits (hmq : s.mq = m :: rest) (h : (neededBatches b.stream m : Int) ≤ b.maxBatches) :
    buildWhole b s = buildWhole (consumeMessage s.params b m) { s with mq := rest } := by
  rw [buildWhole, hmq, buildLoop_of_fits s.params h]
  rfl

theorem buildWhole_of_unfit_first (hmq : s.mq = m :: rest) (h : b.maxBatches < (neededBatches b.stream m : Int))
    (hc : b.consumed = 0) : buildWhole b s = (b, s.emit (.logNofit (neededBatches b.stream m) b.maxBatches)) := by
  rw [buildWhole, hmq, buildLoop_of_unfit s.params h, if_pos hc, ← hmq]

theorem buildWhole_of_unfit_later (hmq : s.mq = m :: rest) (h : b.maxBatches < (neededBatches b.stream m : Int))
    (hc : b.consumed ≠ 0) : buildWhole b s = (b, s) := by
  rw [buildWhole, hmq, buildLoop_of_unfit s.params h, if_neg hc, ← hmq]

/-- R182: the diagnostic of a BUILD, where it has one. -/
def noFitOutputs (mb : Int) : Option Nat → List Output
  | none => []
  | some needed => [.event (Event.logNofit needed mb).word]

/-- A BUILD writes the queue and sends its diagnostic, and nothing else (R178). -/
theorem buildWhole_eq (b : BuildLocals) (s : State) : buildWhole b s =
    ((buildLoop s.params b s.mq).1,
      { s with
        mq := (buildLoop s.params b s.mq).2.1
        trace := s.trace ++ noFitOutputs (buildLoop s.params b s.mq).1.maxBatches (buildLoop s.params b s.mq).2.2 }) := by
  rw [buildWhole]
  rcases buildLoop s.params b s.mq with ⟨b', mq', _ | needed⟩
  · simp [noFitOutputs]
  · rfl

/-- What a tick does with BUILD's locals: nothing built leads to AWAITING_SLOT, a stream is encoded (R142, R145). -/
def settleBuild (e : EncodeAnswer) (b : BuildLocals) (s : State) : State :=
  if b.consumed = 0 then s.setSched .awaitingSlot
  else settleEncode b.arm b.time e ((s.out (.request (.encode b.stream))).out (.encodeAnswer e))

theorem buildAndEncode_eq (e : EncodeAnswer) (b : BuildLocals) (s : State) :
    buildAndEncode e b s = settleBuild e (buildWhole b s).1 (buildWhole b s).2 := by
  cases e <;> rfl

end Sys2Proof.Machine
end

section
/-! A tick that nothing interrupts, micro-step by micro-step to its end (41_scheduler R130 to R147). -/

namespace Sys2Proof.Machine

/-- The tick that runs alone comes from one state to the other. -/
def RunsTo (e : EncodeAnswer) (a : SendAnswer) (s t : State) : Prop := ∃ n, tickAlone e a n s = .next t

variable {e : EncodeAnswer} {a : SendAnswer} {s t u : State} {pos : TickPos} {b : BuildLocals} {m : Message}
  {rest : List Message} {arm : Arm} {time wall : Half} {n : Nat}

/-! ### Runs -/

theorem RunsTo.refl (s : State) : RunsTo e a s s := ⟨0, rfl⟩

theorem RunsTo.trans (h : RunsTo e a s t) (h' : RunsTo e a t u) : RunsTo e a s u := by
  obtain ⟨n, hn⟩ := h
  obtain ⟨k, hk⟩ := h'
  exact ⟨n + k, (tickAlone_add e a n k hn).trans hk⟩

theorem State.goto_self (h : s.tick = some pos) : s.goto pos = s := by
  cases s
  cases h
  rfl

/-- One micro-step is a run. -/
theorem RunsTo.micro (hwait : pos.waiting = false) (ht : microStep pos (s.goto pos) = t) : RunsTo e a (s.goto pos) t :=
  ⟨1, (tickAlone_micro e a 0 rfl hwait).trans (congrArg _ ht)⟩

theorem runsTo_encodeWait : RunsTo e a (s.goto (.encodeWait arm time))
    ((s.out (.encodeAnswer e)).goto (.encodeDone arm time e)) := ⟨1, tickAlone_encodeWait e a 0 rfl⟩

theorem runsTo_sendWait : RunsTo e a (s.goto (.sendWait time)) ((s.out (.sendAnswer a)).goto (.sendDone time a)) :=
  ⟨1, tickAlone_sendWait e a 0 rfl⟩

theorem runsTo_finish : RunsTo e a (s.goto .finish) s.endTick := .micro rfl rfl

/-! ### BUILD -/

theorem microStep_buildPop_of_empty (h : s.mq = []) : microStep (.buildPop b) s = s.goto (.buildResult b) := by
  simp only [microStep, tickBuildPop, State.pop, h]

theorem microStep_buildTest_of_fits (h : (neededBatches b.stream m : Int) ≤ b.maxBatches) :
    microStep (.buildTest b m) s = s.goto (.buildPop (consumeMessage s.params b m)) := if_neg (Int.not_lt.mpr h)

theorem microStep_buildTest_of_unfit (h : b.maxBatches < (neededBatches b.stream m : Int)) :
    microStep (.buildTest b m) s =
      (s.pushFront m).goto (if b.consumed = 0 then .buildNofit b (neededBatches b.stream m) else .buildResult b) :=
  (if_pos h).trans (apply_ite (s.pushFront m).goto _ _ _).symm

theorem runsTo_unfit (hmq : s.mq = m :: rest) (h : b.maxBatches < (neededBatches b.stream m : Int)) :
    RunsTo e a ({ s with mq := rest }.goto (.buildTest b m)) ((buildWhole b s).2.goto (.buildResult (buildWhole b s).1)) := by
  have hback (next : TickPos) : { s with mq := m :: rest }.goto next = s.goto next := by rw [← hmq]
  have htest : RunsTo e a ({ s with mq := rest }.goto (.buildTest b m))
      (s.goto (if b.consumed = 0 then .buildNofit b (neededBatches b.stream m) else .buildResult b)) :=
    .micro rfl ((microStep_buildTest_of_unfit h).trans (hback _))
  by_cases hc : b.consumed = 0
  · rw [buildWhole_of_unfit_first hmq h hc]
    rw [if_pos hc] at htest
    exact htest.trans (.micro rfl rfl)
  · rw [buildWhole_of_unfit_later hmq h hc]
    rwa [if_neg hc] at htest

/-- BUILD's micro-steps come to BUILD as one function (R174 to R178). -/
theorem runsTo_build (b : BuildLocals) (s : State) :
    RunsTo e a (s.goto (.buildPop b)) ((buildWhole b s).2.goto (.buildResult (buildWhole b s).1)) := by
  obtain ⟨msgs, hmq⟩ : ∃ msgs, s.mq = msgs := ⟨_, rfl⟩
  induction msgs generalizing s b with
  | nil =>
    rw [buildWhole_of_empty hmq]
    exact .micro rfl (microStep_buildPop_of_empty hmq)
  | cons m rest ih =>
    have hpop : RunsTo e a (s.goto (.buildPop b)) ({ s with mq := rest }.goto (.buildTest b m)) :=
      .micro rfl (microStep_buildPop_of_cons hmq)
    by_cases hfit : (neededBatches b.stream m : Int) ≤ b.maxBatches
    · have htest : RunsTo e a ({ s with mq := rest }.goto (.buildTest b m))
          ({ s with mq := rest }.goto (.buildPop (consumeMessage s.params b m))) :=
        .micro rfl (microStep_buildTest_of_fits hfit)
      rw [buildWhole_of_fits hmq hfit]
      exact hpop.trans (htest.trans (ih _ _ rfl))
    · exact hpop.trans (runsTo_unfit hmq (Int.not_le.mp hfit))

/-! ### From BUILD's result to the tick's end -/

theorem microStep_buildResult_of_nothing (hsched : s.sched = b.arm.startState) (hc : b.consumed = 0) :
    microStep (.buildResult b) s = (s.setSched .awaitingSlot).goto .finish := by
  rw [microStep, tickBuildResult, if_pos hc]
  cases harm : b.arm with
  | awaiting =>
    rw [harm] at hsched
    exact congrArg (State.goto · .finish) (State.setSched_self hsched).symm
  | still => rfl

theorem microStep_buildResult_of_built (hc : b.consumed ≠ 0) :
    microStep (.buildResult b) s = s.goto (.encodeCall b.arm b.time b.stream) := if_neg hc

theorem settleEncode_goto : settleEncode arm time e (s.goto pos) = (settleEncode arm time e s).goto pos := by
  cases e <;> rfl

theorem runsTo_encodeDone (hsched : s.sched = arm.startState) :
    RunsTo e a (s.goto (.encodeDone arm time e)) (settleEncode arm time e s).endTick := by
  have hdone : microStep (.encodeDone arm time e) (s.goto (.encodeDone arm time e)) =
      (settleEncode arm time e s).goto .finish := by
    rw [microStep_encodeDone (s := s.goto _) hsched, settleEncode_goto]
    rfl
  exact (RunsTo.micro rfl hdone).trans runsTo_finish

theorem runsTo_encodeCall {stream : List Word} (hsched : s.sched = arm.startState) :
    RunsTo e a (s.goto (.encodeCall arm time stream))
      (settleEncode arm time e ((s.out (.request (.encode stream))).out (.encodeAnswer e))).endTick := by
  have hask : RunsTo e a (s.goto (.encodeCall arm time stream))
      ((s.out (.request (.encode stream))).goto (.encodeWait arm time)) := .micro rfl rfl
  exact hask.trans (runsTo_encodeWait.trans
    (runsTo_encodeDone (s := (s.out (.request (.encode stream))).out (.encodeAnswer e)) hsched))

theorem runsTo_buildResult (hsched : s.sched = b.arm.startState) :
    RunsTo e a (s.goto (.buildResult b)) (settleBuild e b s).endTick := by
  by_cases hc : b.consumed = 0
  · have hdone : RunsTo e a (s.goto (.buildResult b)) ((s.setSched .awaitingSlot).goto .finish) :=
      .micro rfl (microStep_buildResult_of_nothing hsched hc)
    rw [settleBuild, if_pos hc]
    exact hdone.trans runsTo_finish
  · have hbuilt : RunsTo e a (s.goto (.buildResult b)) (s.goto (.encodeCall b.arm b.time b.stream)) :=
      .micro rfl (microStep_buildResult_of_built hc)
    rw [settleBuild, if_neg hc]
    exact hbuilt.trans (runsTo_encodeCall hsched)

theorem runsTo_buildAndEncode (hsched : s.sched = b.arm.startState) :
    RunsTo e a (s.goto (.buildPop b)) (buildAndEncode e b s).endTick := by
  rw [buildAndEncode_eq]
  obtain ⟨harm, -⟩ := buildLoop_keeps s.params b s.mq
  refine (runsTo_build b s).trans (runsTo_buildResult ?_)
  rw [buildWhole_eq]
  exact hsched.trans (congrArg _ harm.symm)

/-! ### The three arms -/

/-- What the Transmitter's answer to a SEND comes to (R144, R225). -/
def settleSend (time : Half) (a : SendAnswer) (s : State) : State :=
  match a with
  | .ok => s.dropPayload.setSched .slotStillAllowed
  | .fail => (s.emit (.logSendFail time)).dropPayload.setSched .slotStillAllowed

theorem microStep_sendDone : microStep (.sendDone time a) (s.goto pos) = (settleSend time a s).goto .finish := by
  cases a <;> rfl

theorem wholeArm_awaitingSlot (hs : s.sched = .awaitingSlot) : wholeArm e a time s =
    if awaitGuard time s then
      buildAndEncode e (startBuild s.params .awaiting time (allowedRun s.slots (indexOf (timeArg time) + 1))) s
    else s := by
  rw [wholeArm, hs]

theorem wholeArm_dataEncoded (hs : s.sched = .dataEncoded) : wholeArm e a time s =
    if slotAllowed s.slots (indexOf (timeArg time)) then
      settleSend time a ((s.out (.request (.send s.payload))).out (.sendAnswer a))
    else s := by
  rw [wholeArm, hs]
  cases a <;> rfl

theorem wholeArm_slotStillAllowed (hs : s.sched = .slotStillAllowed) : wholeArm e a time s =
    if slotAllowed s.slots (indexOf (timeArg time)) then
      if s.queueEmpty then s
      else buildAndEncode e (startBuild s.params .still time (allowedRun s.slots (indexOf (timeArg time)))) s
    else s.setSched .awaitingSlot := by
  rw [wholeArm, hs]

theorem runsTo_awaiting (hs : s.sched = .awaitingSlot) :
    RunsTo e a (s.goto (.awaitNext time)) (wholeArm e a time s).endTick := by
  have hnext : RunsTo e a (s.goto (.awaitNext time)) (s.goto (.awaitQueue time (nextAllowed s.slots (timeArg time)))) :=
    .micro rfl rfl
  have hqueue : RunsTo e a (s.goto (.awaitQueue time (nextAllowed s.slots (timeArg time))))
      (s.goto (.awaitLead time (nextAllowed s.slots (timeArg time)) (!s.queueEmpty))) := .micro rfl rfl
  have hlead : RunsTo e a (s.goto (.awaitLead time (nextAllowed s.slots (timeArg time)) (!s.queueEmpty)))
      (s.goto (if awaitGuard time s then .awaitRun time else .finish)) := .micro rfl (microStep_awaitLead time _ _ _)
  refine hnext.trans (hqueue.trans (hlead.trans ?_))
  rw [wholeArm_awaitingSlot hs]
  by_cases hg : awaitGuard time s = true
  · rw [if_pos hg, if_pos hg]
    have hrun : RunsTo e a (s.goto (.awaitRun time)) (s.goto (.buildPop
        (startBuild s.params .awaiting time (allowedRun s.slots (indexOf (timeArg time) + 1))))) := .micro rfl rfl
    exact hrun.trans (runsTo_buildAndEncode hs)
  · rw [if_neg hg, if_neg hg]
    exact runsTo_finish

theorem runsTo_send (hs : s.sched = .dataEncoded) :
    RunsTo e a (s.goto (.sendGuard time)) (wholeArm e a time s).endTick := by
  rw [wholeArm_dataEncoded hs]
  by_cases hallowed : slotAllowed s.slots (indexOf (timeArg time)) = true
  · have hguard : RunsTo e a (s.goto (.sendGuard time)) (s.goto (.sendCall time)) := .micro rfl (if_pos hallowed)
    have hask : RunsTo e a (s.goto (.sendCall time)) ((s.out (.request (.send s.payload))).goto (.sendWait time)) :=
      .micro rfl rfl
    rw [if_pos hallowed]
    exact hguard.trans (hask.trans (runsTo_sendWait.trans (.trans (.micro rfl microStep_sendDone) runsTo_finish)))
  · rw [if_neg hallowed]
    exact .trans (.micro rfl (if_neg hallowed)) runsTo_finish

theorem runsTo_still (hs : s.sched = .slotStillAllowed) :
    RunsTo e a (s.goto (.stillGuard time)) (wholeArm e a time s).endTick := by
  rw [wholeArm_slotStillAllowed hs]
  by_cases hallowed : slotAllowed s.slots (indexOf (timeArg time)) = true
  · have hguard : RunsTo e a (s.goto (.stillGuard time)) (s.goto (.stillQueue time)) := .micro rfl (if_pos hallowed)
    rw [if_pos hallowed]
    by_cases hempty : s.queueEmpty = true
    · have hqueue : RunsTo e a (s.goto (.stillQueue time)) (s.goto .finish) := .micro rfl (if_pos hempty)
      rw [if_pos hempty]
      exact hguard.trans (hqueue.trans runsTo_finish)
    · have hqueue : RunsTo e a (s.goto (.stillQueue time)) (s.goto (.stillRun time)) := .micro rfl (if_neg hempty)
      have hrun : RunsTo e a (s.goto (.stillRun time)) (s.goto (.buildPop
          (startBuild s.params .still time (allowedRun s.slots (indexOf (timeArg time)))))) := .micro rfl rfl
      rw [if_neg hempty]
      exact hguard.trans (hqueue.trans (hrun.trans (runsTo_buildAndEncode hs)))
  · rw [if_neg hallowed]
    exact .trans (.micro rfl (if_neg hallowed)) runsTo_finish

/-- Where the arm that STATE selects begins (R136). -/
def armStart (time : Half) : SchedState → TickPos
  | .awaitingSlot => .awaitNext time
  | .dataEncoded => .sendGuard time
  | .slotStillAllowed => .stillGuard time

theorem runsTo_armStart (s : State) : RunsTo e a (s.goto (.t4 time)) (s.goto (armStart time s.sched)) := by
  refine .micro rfl ?_
  rw [microStep, tickT4, State.goto_sched]
  cases s.sched <;> rfl

/-- From the dispatch the selected arm runs to the tick's end (R136). -/
theorem runsTo_arm (s : State) : RunsTo e a (s.goto (.t4 time)) (wholeArm e a time s).endTick := by
  have hstart : RunsTo e a (s.goto (.t4 time)) (s.goto (armStart time s.sched)) := runsTo_armStart s
  cases hs : s.sched <;> rw [hs] at hstart
  · exact hstart.trans (runsTo_awaiting hs)
  · exact hstart.trans (runsTo_send hs)
  · exact hstart.trans (runsTo_still hs)

/-! ### The whole tick -/

/-- The state at the dispatch, T4: the time base written, the slot observed, and the observer told of a change (R133 to R135). -/
def atDispatch (wall : Half) (s : State) : State :=
  let seen := { s with time := tickTime wall s }.observe (timeArg (tickTime wall s))
  if s.slotChanged (timeArg (tickTime wall s)) && s.obsEn then seen.emit (.obsNotify s.slots) else seen

theorem wholeTick_of_cancel (h : s.cancel = true) : wholeTick e a wall s = s.endTick := if_pos h

theorem wholeTick_of_no_cancel (h : s.cancel = false) :
    wholeTick e a wall s = (wholeArm e a (tickTime wall s) (atDispatch wall s)).endTick :=
  if_neg (ne_true_of_eq_false h)

theorem microStep_t2_goto (s : State) : microStep (.t2 time) (s.goto pos) =
    (s.observe (timeArg time)).goto (.t3 time (s.slotChanged (timeArg time))) := by
  rw [State.observe, apply_ite (State.goto · _)]
  exact apply_ite (State.goto · _) _ _ _

theorem microStep_t3_goto (ch : Bool) (s : State) : microStep (.t3 time ch) (s.goto pos) =
    (if ch && s.obsEn then s.emit (.obsNotify s.slots) else s).goto (.t4 time) := by
  rw [apply_ite (State.goto · _)]
  rfl

theorem runsTo_dispatch (wall : Half) (s : State) :
    RunsTo e a (s.goto (.t1 wall)) ((atDispatch wall s).goto (.t4 (tickTime wall s))) := by
  have hbase : RunsTo e a (s.goto (.t1 wall)) ({ s with time := tickTime wall s }.goto (.t2 (tickTime wall s))) :=
    .micro rfl rfl
  refine hbase.trans (.trans (.micro rfl (microStep_t2_goto _)) (.micro rfl ?_))
  rw [microStep_t3_goto, State.observe_obsEn, State.observe_slots]
  rfl

/-- Settles O43: micro-step by micro-step to the dispatch, and then the arm that STATE selects. -/
theorem uninterruptedTickIsTheWholeTick : Obligations.UninterruptedTickIsTheWholeTick := by
  intro e a s wall htick
  have hstart : s.goto (.t0 wall) = s := State.goto_self htick
  suffices h : RunsTo e a (s.goto (.t0 wall)) (wholeTick e a wall s) from hstart ▸ h
  cases hc : s.cancel with
  | true =>
    have hcancel : RunsTo e a (s.goto (.t0 wall)) (s.goto .finish) :=
      .micro rfl (microStep_t0_of_cancel (s := s.goto _) hc)
    rw [wholeTick_of_cancel hc]
    exact hcancel.trans runsTo_finish
  | false =>
    have hproceed : RunsTo e a (s.goto (.t0 wall)) (s.goto (.t1 wall)) :=
      .micro rfl (microStep_t0_of_no_cancel (s := s.goto _) hc)
    rw [wholeTick_of_no_cancel hc]
    exact hproceed.trans ((runsTo_dispatch wall s).trans (runsTo_arm _))

end Sys2Proof.Machine
end

section
/-! What a tick that nothing interrupts sends, and the STATE it leaves (41_scheduler R135, R141 to R146, R148; 43_interfaces R209; 60_exceptions R230). -/

namespace Sys2Proof.Machine

variable {e : EncodeAnswer} {a : SendAnswer} {s t : State} {b : BuildLocals} {arm : Arm} {time wall : Half} {n : Nat}

/-! ### Requests and events of a trace -/

@[simp] theorem requestsIn_append (u v : List Output) : requestsIn (u ++ v) = requestsIn u ++ requestsIn v :=
  List.filterMap_append

@[simp] theorem eventsIn_append (u v : List Output) : eventsIn (u ++ v) = eventsIn u ++ eventsIn v :=
  List.filterMap_append

section
variable (u : List Output)

@[simp] theorem requestsIn_nil : requestsIn [] = [] := rfl
@[simp] theorem requestsIn_request (r : XmitRequest) : requestsIn (.request r :: u) = r :: requestsIn u := rfl
@[simp] theorem requestsIn_event (ev : Word) : requestsIn (.event ev :: u) = requestsIn u := rfl
@[simp] theorem requestsIn_response (p : Port) (w : Word) : requestsIn (.response p w :: u) = requestsIn u := rfl
@[simp] theorem requestsIn_encodeAnswer (e : EncodeAnswer) : requestsIn (.encodeAnswer e :: u) = requestsIn u := rfl
@[simp] theorem requestsIn_sendAnswer (a : SendAnswer) : requestsIn (.sendAnswer a :: u) = requestsIn u := rfl

@[simp] theorem eventsIn_nil : eventsIn [] = [] := rfl
@[simp] theorem eventsIn_request (r : XmitRequest) : eventsIn (.request r :: u) = eventsIn u := rfl
@[simp] theorem eventsIn_event (ev : Word) : eventsIn (.event ev :: u) = ev :: eventsIn u := rfl
@[simp] theorem eventsIn_response (p : Port) (w : Word) : eventsIn (.response p w :: u) = eventsIn u := rfl
@[simp] theorem eventsIn_encodeAnswer (e : EncodeAnswer) : eventsIn (.encodeAnswer e :: u) = eventsIn u := rfl
@[simp] theorem eventsIn_sendAnswer (a : SendAnswer) : eventsIn (.sendAnswer a :: u) = eventsIn u := rfl

end

@[simp] theorem requestsIn_noFitOutputs (mb : Int) (n : Option Nat) : requestsIn (noFitOutputs mb n) = [] := by
  cases n <;> rfl

/-! ### Up to the dispatch -/

/-- What the observer is told before the dispatch (R135). -/
def dispatchNotes (wall : Half) (s : State) : List Output :=
  if s.slotChanged (timeArg (tickTime wall s)) && s.obsEn then [.event (Event.obsNotify s.slots).word] else []

/-- The change detector is all that hasChanged writes (R117). -/
theorem State.observe_writes (s : State) (t : Int) :
    ∃ valid idx, s.observe t = { s with lastValid := valid, lastIdx := idx } := by
  rw [State.observe]
  split
  · exact ⟨_, _, rfl⟩
  · exact ⟨s.lastValid, s.lastIdx, rfl⟩

/-- Up to the dispatch a tick writes TIME and the change detector, and sends the observer's note (R133 to R135). -/
theorem atDispatch_writes (wall : Half) (s : State) : ∃ valid idx, atDispatch wall s =
    { s with
      time := tickTime wall s
      lastValid := valid
      lastIdx := idx
      trace := s.trace ++ dispatchNotes wall s } := by
  obtain ⟨valid, idx, h⟩ := { s with time := tickTime wall s }.observe_writes (timeArg (tickTime wall s))
  refine ⟨valid, idx, ?_⟩
  rw [atDispatch, h, dispatchNotes]
  split
  · rfl
  · rw [List.append_nil]

theorem atDispatch_trace (wall : Half) (s : State) : (atDispatch wall s).trace = s.trace ++ dispatchNotes wall s := by
  obtain ⟨valid, idx, h⟩ := atDispatch_writes wall s
  rw [h]

theorem requestsIn_dispatchNotes (wall : Half) (s : State) : requestsIn (dispatchNotes wall s) = [] := by
  rw [dispatchNotes]
  split <;> rfl

/-! ### The rows of the transition table (R148) -/

/-- The run of R142, from the next slot. -/
def nextRun (p time : Half) : Nat := allowedRun p (time.toNat / 64 + 1 : Nat)

/-- The run of R145, from the current slot. -/
def thisRun (p time : Half) : Nat := allowedRun p (time.toNat / 64 : Nat)

theorem allowedRun_next (p time : Half) : allowedRun p (indexOf (timeArg time) + 1) = nextRun p time :=
  allowedRun_congr p _ _ (by rw [indexOf_half]; omega)

theorem allowedRun_current (p time : Half) : allowedRun p (indexOf (timeArg time)) = thisRun p time :=
  allowedRun_congr p _ _ (by rw [indexOf_half]; omega)

theorem nextRun_pos_iff (p time : Half) : 0 < nextRun p time ↔ p.getLsbD ((time.toNat / 64 + 1) % 16) = true := by
  rw [nextRun, allowedRun_pos_iff, slotAllowed_nat]

theorem thisRun_pos_iff (p time : Half) : 0 < thisRun p time ↔ slotAllowed p (indexOf (timeArg time)) = true := by
  rw [← allowedRun_current, allowedRun_pos_iff]

/-- BUILD's result in a state, with a run of slots. -/
def builtFrom (s : State) (time : Half) (arm : Arm) (run : Nat) : BuildLocals :=
  (buildLoop s.params (startBuild s.params arm time run) s.mq).1

/-- The STATE an answered ENCODE leads to (R143, R146; log entry 10). -/
def encodeDest : EncodeAnswer → SchedState
  | .ok _ => .dataEncoded
  | .fail => .awaitingSlot

/-- The rows from AWAITING_SLOT. -/
def AwaitingRow (e : EncodeAnswer) (time : Half) (s : State) (dest : SchedState) (calls : List XmitRequest) : Prop :=
  if 0 < nextRun s.slots time ∧ s.mq ≠ [] ∧ 61 ≤ time.toNat % 64 ∧
      (builtFrom s time .awaiting (nextRun s.slots time)).consumed ≠ 0 then
    calls = [.encode (builtFrom s time .awaiting (nextRun s.slots time)).stream] ∧ dest = encodeDest e
  else dest = .awaitingSlot ∧ calls = []

/-- The rows from DATA_ENCODED. -/
def SendRow (time : Half) (s : State) (dest : SchedState) (calls : List XmitRequest) : Prop :=
  if 0 < thisRun s.slots time then dest = .slotStillAllowed ∧ calls = [.send s.payload]
  else dest = .dataEncoded ∧ calls = []

/-- The rows from SLOT_STILL_ALLOWED. -/
def StillRow (e : EncodeAnswer) (time : Half) (s : State) (dest : SchedState) (calls : List XmitRequest) : Prop :=
  if thisRun s.slots time = 0 then dest = .awaitingSlot ∧ calls = []
  else if s.mq = [] then dest = .slotStillAllowed ∧ calls = []
  else if (builtFrom s time .still (thisRun s.slots time)).consumed = 0 then dest = .awaitingSlot ∧ calls = []
  else calls = [.encode (builtFrom s time .still (thisRun s.slots time)).stream] ∧ dest = encodeDest e

/-- From one state to the other STATE moves, and the Transmitter is called, as a row says. -/
def Meets (row : SchedState → List XmitRequest → Prop) (s t : State) : Prop :=
  ∃ calls, requestsIn t.trace = requestsIn s.trace ++ calls ∧ row t.sched calls

variable {row : SchedState → List XmitRequest → Prop}

/-- A row without a call. -/
theorem Meets.quiet (hreq : requestsIn t.trace = requestsIn s.trace) (hrow : row t.sched []) : Meets row s t :=
  ⟨[], by rw [hreq, List.append_nil], hrow⟩

/-! ### What the arms come to -/

theorem buildAndEncode_of_nothing (hc : (buildLoop s.params b s.mq).1.consumed = 0) :
    (buildAndEncode e b s).sched = .awaitingSlot ∧ requestsIn (buildAndEncode e b s).trace = requestsIn s.trace := by
  rw [buildAndEncode_eq, buildWhole_eq, settleBuild, if_pos hc]
  simp

theorem buildAndEncode_of_built (hc : (buildLoop s.params b s.mq).1.consumed ≠ 0) :
    (buildAndEncode e b s).sched = encodeDest e ∧
    requestsIn (buildAndEncode e b s).trace =
      requestsIn s.trace ++ [.encode (buildLoop s.params b s.mq).1.stream] := by
  rw [buildAndEncode_eq, buildWhole_eq, settleBuild, if_neg hc]
  cases e <;> simp [settleEncode, encodeDest]

/-- The two rows with a BUILD: it gave nothing, or its stream is encoded. -/
theorem meets_buildAndEncode
    (hnone : (builtFrom s time arm n).consumed = 0 → row .awaitingSlot [])
    (hsome : (builtFrom s time arm n).consumed ≠ 0 →
      row (encodeDest e) [.encode (builtFrom s time arm n).stream]) :
    Meets row s (buildAndEncode e (startBuild s.params arm time n) s) := by
  by_cases hc : (builtFrom s time arm n).consumed = 0
  · obtain ⟨hsched, hreq⟩ := buildAndEncode_of_nothing (e := e) hc
    exact .quiet hreq (hsched ▸ hnone hc)
  · obtain ⟨hsched, hreq⟩ := buildAndEncode_of_built (e := e) hc
    exact ⟨_, hreq, hsched ▸ hsome hc⟩

theorem awaitingRow_wholeArm (hs : s.sched = .awaitingSlot) : Meets (AwaitingRow e time s) s (wholeArm e a time s) := by
  rw [wholeArm_awaitingSlot hs, allowedRun_next]
  by_cases hg : awaitGuard time s = true
  · obtain ⟨hnext, hmq, hlate⟩ := (awaitGuard_iff time s).mp hg
    rw [← nextRun_pos_iff] at hnext
    rw [if_pos hg]
    refine meets_buildAndEncode (fun hc => ?_) fun hc => ?_
    · rw [AwaitingRow, if_neg fun ⟨_, _, _, hbuilt⟩ => hbuilt hc]
      exact ⟨rfl, rfl⟩
    · rw [AwaitingRow, if_pos ⟨hnext, hmq, hlate, hc⟩]
      exact ⟨rfl, rfl⟩
  · rw [if_neg hg]
    refine .quiet rfl ?_
    rw [AwaitingRow, if_neg fun ⟨hnext, hmq, hlate, _⟩ =>
      hg ((awaitGuard_iff time s).mpr ⟨(nextRun_pos_iff _ _).mp hnext, hmq, hlate⟩)]
    exact ⟨hs, rfl⟩

theorem sendRow_wholeArm (hs : s.sched = .dataEncoded) : Meets (SendRow time s) s (wholeArm e a time s) := by
  rw [wholeArm_dataEncoded hs]
  by_cases hslot : slotAllowed s.slots (indexOf (timeArg time)) = true
  · rw [if_pos hslot]
    refine ⟨[.send s.payload], by cases a <;> simp [settleSend], ?_⟩
    rw [SendRow, if_pos ((thisRun_pos_iff _ _).mpr hslot)]
    exact ⟨by cases a <;> rfl, rfl⟩
  · rw [if_neg hslot]
    refine .quiet rfl ?_
    rw [SendRow, if_neg (mt (thisRun_pos_iff _ _).mp hslot)]
    exact ⟨hs, rfl⟩

theorem stillRow_wholeArm (hs : s.sched = .slotStillAllowed) : Meets (StillRow e time s) s (wholeArm e a time s) := by
  rw [wholeArm_slotStillAllowed hs, allowedRun_current]
  by_cases hslot : slotAllowed s.slots (indexOf (timeArg time)) = true
  · have hrun : thisRun s.slots time ≠ 0 := Nat.pos_iff_ne_zero.mp ((thisRun_pos_iff _ _).mpr hslot)
    rw [if_pos hslot]
    by_cases hmq : s.mq = []
    · rw [if_pos (queueEmpty_eq_true_iff.mpr hmq)]
      refine .quiet rfl ?_
      rw [StillRow, if_neg hrun, if_pos hmq]
      exact ⟨hs, rfl⟩
    · rw [if_neg (mt queueEmpty_eq_true_iff.mp hmq)]
      refine meets_buildAndEncode (fun hc => ?_) fun hc => ?_
      · rw [StillRow, if_neg hrun, if_neg hmq, if_pos hc]
        exact ⟨rfl, rfl⟩
      · rw [StillRow, if_neg hrun, if_neg hmq, if_neg hc]
        exact ⟨rfl, rfl⟩
  · have hrun : thisRun s.slots time = 0 := Nat.eq_zero_of_not_pos (mt (thisRun_pos_iff _ _).mp hslot)
    rw [if_neg hslot]
    refine .quiet rfl ?_
    rw [StillRow, if_pos hrun]
    exact ⟨rfl, rfl⟩

/-- The row of the transition table that STATE selects. -/
def SelectedRow (e : EncodeAnswer) (time : Half) (s : State) (dest : SchedState) (calls : List XmitRequest) : Prop :=
  (s.sched = .awaitingSlot → AwaitingRow e time s dest calls) ∧ (s.sched = .dataEncoded → SendRow time s dest calls) ∧
  (s.sched = .slotStillAllowed → StillRow e time s dest calls)

theorem selectedRow_wholeArm (s : State) : Meets (SelectedRow e time s) s (wholeArm e a time s) := by
  cases hs : s.sched with
  | awaitingSlot =>
    obtain ⟨calls, hreq, hrow⟩ := awaitingRow_wholeArm (e := e) (a := a) (time := time) hs
    exact ⟨calls, hreq, fun _ => hrow, by simp [hs], by simp [hs]⟩
  | dataEncoded =>
    obtain ⟨calls, hreq, hrow⟩ := sendRow_wholeArm (e := e) (a := a) (time := time) hs
    exact ⟨calls, hreq, by simp [hs], fun _ => hrow, by simp [hs]⟩
  | slotStillAllowed =>
    obtain ⟨calls, hreq, hrow⟩ := stillRow_wholeArm (e := e) (a := a) (time := time) hs
    exact ⟨calls, hreq, by simp [hs], by simp [hs], fun _ => hrow⟩

/-- Up to the dispatch nothing changes that the row reads. -/
theorem selectedRow_atDispatch : SelectedRow e time (atDispatch wall s) = SelectedRow e time s := by
  obtain ⟨valid, idx, h⟩ := atDispatch_writes wall s
  rw [h]
  rfl

/-- Settles O44: the tick as one function, whose arm meets the row that STATE selects at the dispatch, which is the one at T0. -/
theorem transitionTableOfAnUninterruptedTick : Obligations.TransitionTableOfAnUninterruptedTick := by
  intro e a s wall htick
  obtain ⟨n, hrun⟩ := uninterruptedTickIsTheWholeTick e a s wall htick
  cases hc : s.cancel with
  | true =>
    rw [wholeTick_of_cancel hc] at hrun
    exact ⟨n, _, s.sched, [], hrun, rfl, rfl, by simp, fun _ => ⟨rfl, rfl⟩, nofun⟩
  | false =>
    obtain ⟨calls, hreq, hrow⟩ := selectedRow_wholeArm (e := e) (a := a) (time := tickTime wall s) (atDispatch wall s)
    rw [wholeTick_of_no_cancel hc] at hrun
    rw [selectedRow_atDispatch] at hrow
    refine ⟨n, _, _, calls, hrun, rfl, rfl, ?_, nofun, fun _ time htime => ?_⟩
    · simp [hreq, atDispatch_trace, requestsIn_dispatchNotes]
    · obtain rfl : time = tickTime wall s := BitVec.eq_of_toNat_eq (htime.trans (tickTime_toNat wall s).symm)
      exact hrow

/-! ### The events of a tick (R230) -/

/-- The word of one of the three log events (R98, R209). -/
def IsLog (w : Word) : Prop := w.toNat / 16777216 = 0x10 ∨ w.toNat / 16777216 = 0x11 ∨ w.toNat / 16777216 = 0x12

theorem eventWord_code (ev : Event) : ev.word.toNat / 16777216 = ev.code.toNat := by
  have := ev.fieldA.isLt
  have := ev.fieldB.isLt
  rw [Event.word, fields_toNat]
  omega

theorem isLog_logEncodeFail (st : SchedState) (time : Half) : IsLog (Event.logEncodeFail st time).word :=
  .inl (eventWord_code _)

theorem isLog_logSendFail (time : Half) : IsLog (Event.logSendFail time).word := .inr (.inl (eventWord_code _))

theorem isLog_logNofit (needed : Nat) (mb : Int) : IsLog (Event.logNofit needed mb).word :=
  .inr (.inr (eventWord_code _))

/-- From one state to the other one log event goes out, or no event. -/
def LogsAtMostOnce (s t : State) : Prop :=
  eventsIn t.trace = eventsIn s.trace ∨ ∃ w, IsLog w ∧ eventsIn t.trace = eventsIn s.trace ++ [w]

theorem buildAndEncode_logs : LogsAtMostOnce s (buildAndEncode e b s) := by
  obtain ⟨-, -, hnote⟩ := buildLoop_keeps s.params b s.mq
  rw [buildAndEncode_eq, buildWhole_eq, settleBuild]
  by_cases hc : (buildLoop s.params b s.mq).1.consumed = 0
  · rw [if_pos hc]
    cases (buildLoop s.params b s.mq).2.2 with
    | none => exact .inl (by simp [noFitOutputs])
    | some needed => exact .inr ⟨_, isLog_logNofit needed _, eventsIn_append _ _⟩
  · rw [if_neg hc, hnote hc]
    cases e with
    | ok p => exact .inl (by simp [settleEncode, noFitOutputs])
    | fail => exact .inr ⟨_, isLog_logEncodeFail (buildLoop s.params b s.mq).1.arm.startState (buildLoop s.params b s.mq).1.time,
        by simp [settleEncode, noFitOutputs]⟩

theorem settleSend_logs {p : Payload} :
    LogsAtMostOnce s (settleSend time a ((s.out (.request (.send p))).out (.sendAnswer a))) := by
  cases a with
  | ok => exact .inl (by simp [settleSend])
  | fail => exact .inr ⟨_, isLog_logSendFail time, by simp [settleSend]⟩

theorem wholeArm_logs (s : State) : LogsAtMostOnce s (wholeArm e a time s) := by
  cases hs : s.sched with
  | awaitingSlot =>
    rw [wholeArm_awaitingSlot hs]
    split
    · exact buildAndEncode_logs
    · exact .inl rfl
  | dataEncoded =>
    rw [wholeArm_dataEncoded hs]
    split
    · exact settleSend_logs
    · exact .inl rfl
  | slotStillAllowed =>
    rw [wholeArm_slotStillAllowed hs]
    split
    · split
      · exact .inl rfl
      · exact buildAndEncode_logs
    · exact .inl rfl

/-- The observer's note is one event word or none, and carries the plan (R135). -/
theorem eventsIn_dispatchNotes (wall : Half) (s : State) : eventsIn (dispatchNotes wall s) = [] ∨
    eventsIn (dispatchNotes wall s) = [BitVec.ofNat 32 (0x01000000 + s.slots.toNat)] := by
  rw [dispatchNotes, obsNotify_word]
  split
  · exact .inr rfl
  · exact .inl rfl

/-- Settles O46: the observer's note goes out before the dispatch, and the arm logs at most once. -/
theorem eventsOfATickComeInOrder : Obligations.EventsOfATickComeInOrder := by
  intro e a s wall htick
  obtain ⟨n, hrun⟩ := uninterruptedTickIsTheWholeTick e a s wall htick
  cases hc : s.cancel with
  | true =>
    rw [wholeTick_of_cancel hc] at hrun
    exact ⟨n, _, [], [], hrun, rfl, by simp, by simp, by simp, nofun, nofun⟩
  | false =>
    rw [wholeTick_of_no_cancel hc] at hrun
    have hlogs := wholeArm_logs (e := e) (a := a) (time := tickTime wall s) (atDispatch wall s)
    rw [LogsAtMostOnce, atDispatch_trace, eventsIn_append] at hlogs
    have hnotes : (eventsIn (dispatchNotes wall s)).length ≤ 1 ∧
        ∀ w ∈ eventsIn (dispatchNotes wall s), w = BitVec.ofNat 32 (0x01000000 + s.slots.toNat) := by
      rcases eventsIn_dispatchNotes wall s with h | h <;> simp [h]
    obtain ⟨hone, hplan⟩ := hnotes
    rcases hlogs with hnone | ⟨w, hw, hsome⟩
    · exact ⟨n, _, _, [], hrun, rfl, by simp [hnone], hone, by simp, hplan, nofun⟩
    · exact ⟨n, _, _, [w], hrun, rfl, by simp [hsome], hone, by simp, hplan,
        fun _ hmem => List.mem_singleton.mp hmem ▸ hw⟩

end Sys2Proof.Machine
end

section
/-! What BUILD does with a message that does not fit, and how many messages its capacity lets go (42_batchbuilder R170 to R182, R233). -/

namespace Sys2Proof.Machine

variable {p : Params} {s : State} {b : BuildLocals} {m : Message} {msgs : List Message}

/-! ### The message that does not fit -/

theorem logNofit_word (needed : Nat) (mb : Int) : (Event.logNofit needed mb).word =
    BitVec.ofNat 32 (0x12000000 + 0x10000 * min needed 255 + (mb % 65536).toNat) := by
  have hneeded : (BitVec.ofNat 8 (min needed 255)).toNat = min needed 255 :=
    Nat.mod_eq_of_lt (Nat.lt_succ_of_le (Nat.min_le_right _ _))
  have hcapacity : (half mb).toNat = (mb % 65536).toNat := by
    have := half_toNat mb
    omega
  rw [eventWord_fields, Event.code, Event.fieldA, Event.fieldB, hneeded, hcapacity, Nat.mul_comm (min needed 255)]
  rfl

theorem microStep_buildTest_of_unfit_first (h : b.maxBatches < (neededBatches b.stream m : Int)) (hc : b.consumed = 0) :
    microStep (.buildTest b m) s = (s.pushFront m).goto (.buildNofit b (neededBatches b.stream m)) := by
  rw [microStep_buildTest_of_unfit h, if_pos hc]

theorem microStep_buildTest_of_unfit_later (h : b.maxBatches < (neededBatches b.stream m : Int)) (hc : b.consumed ≠ 0) :
    microStep (.buildTest b m) s = (s.pushFront m).goto (.buildResult b) := by
  rw [microStep_buildTest_of_unfit h, if_neg hc]

/-! ### The capacity -/

/-- R174, where BUILD starts: nothing stands behind the preamble yet. -/
theorem neededBatches_preamble (p : Params) (m : Message) :
    neededBatches (preamble p) m = (positionsOf m + 15) / 16 + 1 := by
  rw [neededBatches, currentBatches, preamble_length, Nat.sub_self, Nat.zero_div, Nat.zero_add]

/-- R171, R174: without capacity, or past the positions that a whole plan's capacity holds, the head does not fit. -/
theorem maxBatches_lt_needed {run : Nat} (h : maxBatches p run ≤ 0 ∨ run ≤ 16 ∧ 3568 < positionsOf m) :
    maxBatches p run < (neededBatches (preamble p) m : Int) := by
  rw [neededBatches_preamble]
  rcases h with hnone | ⟨hrun, hover⟩
  · omega
  · have := maxBatches_le p hrun
    omega

/-! ### Messages of one full batch -/

/-- How many messages of one full batch still fit: each takes one batch, and the test of R174 asks for one more. -/
def roomForFull (b : BuildLocals) : Nat := (b.maxBatches - 1 - currentBatches b.stream).toNat

theorem roomForFull_start (p : Params) (arm : Arm) (time : Half) (run : Nat) :
    roomForFull (startBuild p arm time run) = (maxBatches p run - 1).toNat := by
  simp [roomForFull, startBuild, currentBatches, preamble_length]

theorem full_fits_iff (hfull : positionsOf m = 16) :
    (neededBatches b.stream m : Int) ≤ b.maxBatches ↔ 0 < roomForFull b := by
  rw [neededBatches, hfull, roomForFull]
  omega

theorem roomForFull_consume (hm : messageOk m = true) (hfull : positionsOf m = 16) (hs : StreamShape p b.stream) :
    roomForFull (consumeMessage p b m) = roomForFull b - 1 := by
  have hone : batchesOf m = 1 := by rw [batchesOf, hfull]; rfl
  simp only [roomForFull, consumeMessage, currentBatches_appendMessage hm hs, hone]
  omega

/-- R180 (b), from any point of BUILD's loop: full messages go as long as there is room for one. -/
theorem buildLoop_full (hs : StreamShape p b.stream) (hmsgs : ∀ m ∈ msgs, messageOk m = true ∧ positionsOf m = 16) :
    (buildLoop p b msgs).2.1 = msgs.drop (roomForFull b) ∧
    (buildLoop p b msgs).1.consumed = b.consumed + min msgs.length (roomForFull b) := by
  induction msgs generalizing b with
  | nil => simp [buildLoop]
  | cons m rest ih =>
    obtain ⟨⟨hm, hfull⟩, hrest⟩ := List.forall_mem_cons.mp hmsgs
    by_cases hfit : (neededBatches b.stream m : Int) ≤ b.maxBatches
    · obtain ⟨k, hk⟩ := Nat.exists_eq_succ_of_ne_zero (Nat.pos_iff_ne_zero.mp ((full_fits_iff hfull).mp hfit))
      have hroom : roomForFull (consumeMessage p b m) = k := by rw [roomForFull_consume hm hfull hs, hk, Nat.succ_sub_one]
      obtain ⟨hleft, hcount⟩ := ih (b := consumeMessage p b m) (streamShape_appendMessage hm hs) hrest
      rw [buildLoop_of_fits p hfit, hleft, hcount, hroom, hk]
      refine ⟨rfl, ?_⟩
      simp only [consumeMessage, List.length_cons]
      omega
    · have hroom : roomForFull b = 0 := Nat.eq_zero_of_not_pos (mt (full_fits_iff hfull).mpr hfit)
      rw [buildLoop_of_unfit p (Int.not_le.mp hfit), hroom]
      exact ⟨rfl, by simp⟩

/-! ### The statements -/

/-- Settles O34: the test puts the message in front, and leads to the diagnostic only where nothing was consumed. -/
theorem unfitMessageGoesBackToTheHead : Obligations.UnfitMessageGoesBackToTheHead := by
  intro s b m later hpos hturns hunfit
  refine ⟨fun hc => ⟨_, step_tick_eq hpos hturns (microStep_buildTest_of_unfit_later hunfit hc), rfl⟩, fun hc => ?_⟩
  rw [steps_tick 1 hpos hturns (microStep_buildTest_of_unfit_first hunfit hc), ← logNofit_word]
  exact steps_tick 0 rfl rfl rfl

/-- Settles O36: integer division by 1360 is the floor. -/
theorem capacityIsTheExactFloor : Obligations.CapacityIsTheExactFloor := by
  intro p n
  refine ⟨?_, ?_, maxBatches_le p, fun hn => ?_⟩ <;> (unfold maxBatches; omega)

/-- Settles O37: the length of the message's own batches, with n written out. -/
theorem messageOccupiesWholeBatches : Obligations.MessageOccupiesWholeBatches := by
  intro p stream m hm hs
  rw [appendMessage_length hm hs, batchesOf, positionsOf, payloadOf, List.length_tail]

/-- Settles O40: at BUILD's start there is room for one message fewer than the capacity. -/
theorem fullBatchesAreConsumedUpToTheMargin : Obligations.FullBatchesAreConsumedUpToTheMargin := by
  intro p arm time run msgs hmsgs
  obtain ⟨hleft, hcount⟩ := buildLoop_full (b := startBuild p arm time run) (streamShape_preamble p) hmsgs
  rw [hleft, hcount, roomForFull_start]
  exact ⟨rfl, Nat.zero_add _⟩

/-- Settles O41: the head is the first message examined, and it does not fit. -/
theorem unsendableHeadStaysAtTheHead : Obligations.UnsendableHeadStaysAtTheHead := by
  intro p arm time run m rest
  refine ⟨fun h => ?_, rfl⟩
  have hunfit : (startBuild p arm time run).maxBatches < (neededBatches (startBuild p arm time run).stream m : Int) :=
    maxBatches_lt_needed h
  have hnothing : (startBuild p arm time run).consumed = 0 := rfl
  rw [buildLoop_of_unfit p hunfit, if_pos hnothing, ← neededBatches_preamble p]
  rfl

/-- Settles O42: the run of BUILD that the whole tick contains, begun at BUILD's first pop. -/
theorem uninterruptedBuildIsAFunction : Obligations.UninterruptedBuildIsAFunction := by
  intro e a s b hpos
  have hrun : RunsTo e a (s.goto (.buildPop b)) _ := runsTo_build b s
  rwa [State.goto_self hpos] at hrun

end Sys2Proof.Machine
end

section
/-! The message queue's commands (43_interfaces R201, R202, R205, R210). -/

namespace Sys2Proof.Machine

variable {s : State} {m : Message}

/-- R210: what makes a pushed list ill-formed. -/
theorem messageOk_eq_false_iff : messageOk m = false ↔ m = [] ∨ ∃ f payload, m = f :: payload ∧ 7 < f.toNat := by
  cases m with
  | nil => simp [messageOk]
  | cons f payload => simp [messageOk]

/-- R201, R202: the queue is full exactly when it is bounded and queued and held messages are at the bound. -/
theorem queueFull_eq_true_iff : s.queueFull = true ↔ s.params.qdepth = some (s.mq.length + s.held) := by
  cases h : s.params.qdepth with
  | none => simp [queueFull_of_unbounded h]
  | some depth =>
    rw [State.queueFull, h, Option.some.injEq]
    exact beq_iff_eq.trans eq_comm

/-- R202: a list that is not well-formed is refused before the room in the queue is looked at (R228 c). -/
theorem exec_qpush_of_bad (hbad : messageOk m = false) : exec (.qpush m) s = .next (s.refuse .host .badMessage) :=
  if_pos hbad

/-- R202: a well-formed list is refused where the queue is full. -/
theorem exec_qpush_of_full (hok : messageOk m = true) (hfull : s.queueFull = true) :
    exec (.qpush m) s = .next (s.refuse .host .queueFull) := by
  simp only [exec, execQpush, hok, hfull, Bool.true_eq_false, if_false, if_true]

/-- Settles O24: the list is ill-formed, or the queue is full, or the list is appended. -/
theorem qpushAppendsOrRefuses : Obligations.QpushAppendsOrRefuses := by
  intro s m
  refine ⟨fun hbad => ?_, fun f payload hm hf => ?_⟩
  · have hword : responseWord .badMessage 0 = 0x03000000 := by decide
    rw [exec_qpush_of_bad (messageOk_eq_false_iff.mpr hbad), State.refuse_eq_out, hword, State.out]
  · have hok : messageOk m = true := hm ▸ decide_eq_true hf
    by_cases hfull : s.queueFull = true
    · have hword : responseWord .queueFull 0 = 0x04000000 := by decide
      rw [if_pos (queueFull_eq_true_iff.mp hfull), exec_qpush_of_full hok hfull, State.refuse_eq_out, hword, State.out]
    · have hword : responseWord .ok 0 = 0 := by decide
      rw [if_neg (mt queueFull_eq_true_iff.mpr hfull), exec_qpush_of_room hok (Bool.not_eq_true _ ▸ hfull),
        State.respond_eq_out, hword, State.out, State.push]

/-- Settles O25: the answer bit is the test for an empty queue. -/
theorem qemptyAnswersWhetherEmpty : Obligations.QemptyAnswersWhetherEmpty := by
  intro s
  simp only [exec, execQempty, State.respond_eq_out, responseWord_bit, queueEmpty_eq_true_iff, State.out]

end Sys2Proof.Machine
end

section
/-! The two steps that fetch no command: the free move of an idle or contended engine, and reset (10_state R37, R38; 20_memory R61; 70_reset_and_hazards R250). -/

namespace Sys2Proof.Machine

variable {s : State}

/-! ### The free move by who is ready (R38, R61) -/

/-- R38: an engine where neither agent can move stays as it is. -/
theorem freeMove_of_none_ready (hh : s.hostReady = false) (ht : s.tickReady = false) : freeMove s = .next s := by
  simp only [freeMove, hh, ht]

/-- R61, R228 d: where both agents can move, the free value says which does, and the draw is counted. -/
theorem freeMove_of_both_ready (hh : s.hostReady = true) (ht : s.tickReady = true) :
    freeMove s = takeTurn (if Config.hostFirst s.draws then .host else .tick) { s with draws := s.draws + 1 } := by
  simp only [freeMove, hh, ht]
  split <;> rfl

/-- Settles O6: the free move stays where neither agent is ready, and where both are it is the turn the free value names. -/
theorem unlistedTurnMovesOneAgent : Obligations.UnlistedTurnMovesOneAgent := by
  intro s hturns
  rw [step_of_no_turn hturns]
  refine ⟨freeMove_of_none_ready, fun hh ht => ?_⟩
  rw [freeMove_of_both_ready hh ht]
  by_cases hfirst : Config.hostFirst s.draws = true
  · exact .inl (by rw [if_pos hfirst])
  · exact .inr (by rw [if_neg hfirst])

/-! ### What reset leaves on the host port (R250) -/

variable {ws : List Word}

/-- R250: the words of an incomplete command are dropped. -/
theorem withoutPartial_of_incomplete (hd : decode .host ws = .incomplete) : withoutPartial ws = [] := by
  simp only [withoutPartial, hd]

/-- Words that begin with a whole command, or with one that spells none, are kept. -/
theorem withoutPartial_of_ne_incomplete (hd : decode .host ws ≠ .incomplete) : withoutPartial ws = ws := by
  unfold withoutPartial
  split
  · exact absurd ‹_› hd
  · rfl

/-- Settles O12: the reset turn goes to `State.afterReset`, whose fields are reset's but for the ports, the parameters and the later turns. -/
theorem resetAbandonsEverything : Obligations.ResetAbandonsEverything := by
  intro s later hturns
  have hstep : step s = .next { s with turns := later }.afterReset := step_of_turn hturns
  exact ⟨_, hstep, rfl, rfl, rfl, rfl, rfl, rfl, rfl, rfl, rfl, rfl, rfl, rfl, rfl, rfl, rfl,
    withoutPartial_of_incomplete, withoutPartial_of_ne_incomplete⟩

end Sys2Proof.Machine
end
